-- ==== Sys2Proof/Word.lean ====
section
/-! DEFINITION. The widths of OGG-CRC32: 32-bit words, 8-bit bytes, 28-bit counters (spec/00_scope.md R10, R13;
spec/20_memory.md R61). All values are unsigned (R12). -/

namespace Sys2Proof

/-- A 32-bit word: a command, an accumulator value, a table entry, the data of a record (R10 `W`, `CMDW`). -/
abbrev Word := BitVec 32

/-- An 8-bit value: a byte of the buffer or a table index (R61, R73). -/
abbrev Byte := BitVec 8

/-- A 28-bit unsigned byte count: `LEN`, `CNT` and the field `LEN28` (R10 `LENW`, R22, R23, R72). -/
abbrev Count := BitVec 28

end Sys2Proof
end

