-- ==== Sys2Proof/Syntax.lean ====
section
/-! DEFINITION. The commands of command set version 1 (spec/30_encoding.md R74), one constructor per row of the
opcode table. A word that is no row of the table is ILLEGAL (R76): it is no command, so it is no constructor here, and
`decode` rejects it by name. -/

namespace Sys2Proof

/-- The seven commands (R74). Their operands carry the field's own width, so every value of a field is a term (R72, R73). -/
inductive Instr where
  /-- NOP, opcode 0, format N (R120). -/
  | nop
  /-- START, opcode 1, format L: the declared length `len` (R121). -/
  | start (len : Count)
  /-- BYTE, opcode 2, format B: the data byte `b` (R140). -/
  | byte (b : Byte)
  /-- FINISH, opcode 3, format N (R122). -/
  | finish
  /-- TREAD, opcode 4, format B: the table index `i` (R160). -/
  | tread (i : Byte)
  /-- STATUS, opcode 5, format N (R161). -/
  | status
  /-- REMAIN, opcode 6, format N (R162). -/
  | remain
  deriving DecidableEq, Repr

end Sys2Proof
end

