-- ==== Sys2Proof/WellFormed.lean ====
section
/-! DEFINITION. What a term must meet to be encoded. A command's operand types are exactly its fields' widths, so every
`Instr` is well formed (R72, R73: every value of `LEN28` and `IMM8` is legal). The checks that can fail are the assembler's:
an operand outside its range is an assembly error (spec/30_encoding.md R77, R78). Log 13. -/

namespace Sys2Proof

/-- A command is well formed: each operand fits its field. The operand's type says so, hence one `true` per constructor. -/
def Instr.wellFormed : Instr → Bool
  | .nop => true
  | .start _ => true
  | .byte _ => true
  | .finish => true
  | .tread _ => true
  | .status => true
  | .remain => true

/-- A byte operand of an assembly line: a number (decimal or hexadecimal, the same number) or a quoted character (R77). -/
inductive AsmOperand where
  | num (n : Nat)
  | quoted (c : Char)
  deriving DecidableEq, Repr

/-- One line of assembly: the rows of R77 and the pseudo-instructions of R78, after the text has been read. -/
inductive AsmLine where
  | nop
  | start (n : Nat)
  | byte (v : AsmOperand)
  | finish
  | tread (i : Nat)
  | status
  | remain
  /-- `.word W`: W itself, illegal words included (R77). -/
  | word (w : Nat)
  /-- `bytes "s"` (R78). -/
  | bytesText (s : List Char)
  /-- `bytes V1, ..., Vn` (R78). -/
  | bytesList (vs : List AsmOperand)
  /-- `crc "s"` (R78). -/
  | crcText (s : List Char)
  /-- `crc V1, ..., Vn`, with no operands too (R78). -/
  | crcList (vs : List AsmOperand)
  deriving DecidableEq, Repr

/-- A character is ASCII, one byte: at most 127 (R78). -/
def asciiOk (c : Char) : Bool := decide (c.toNat ≤ 127)

/-- A byte operand is in range: a number from 0 to 255, or an ASCII character (R77, R78). -/
def AsmOperand.wellFormed : AsmOperand → Bool
  | .num n => decide (n < 2 ^ 8)
  | .quoted c => asciiOk c

/-- An assembly line whose operands are all in range; on any other line the assembler emits no word (R77, R78). -/
def AsmLine.wellFormed : AsmLine → Bool
  | .nop => true
  | .start n => decide (n < 2 ^ 28)
  | .byte v => v.wellFormed
  | .finish => true
  | .tread i => decide (i < 2 ^ 8)
  | .status => true
  | .remain => true
  | .word w => decide (w < 2 ^ 32)
  | .bytesText s => s.all asciiOk
  | .bytesList vs => vs.all AsmOperand.wellFormed
  | .crcText s => decide (s.length < 2 ^ 28) && s.all asciiOk
  | .crcList vs => decide (vs.length < 2 ^ 28) && vs.all AsmOperand.wellFormed

end Sys2Proof
end

