-- ==== Sys2Proof/Decode.lean ====
section
/-! DEFINITION. The decoder, total on every 32-bit word (spec/30_encoding.md R75), the encoder written from the same formats
(R71), the opcode map (R74), and the assembler (R77, R78). -/

namespace Sys2Proof

/-- Why a word is ILLEGAL (R76). -/
inductive Illegal where
  /-- `OP` is 0x7 to 0xF. -/
  | reservedOpcode
  /-- A legal `OP` whose reserved field (`RSV28` or `RSV20`) is not 0. -/
  | reservedField
  deriving DecidableEq, Repr

/-! ### Fields (R71) -/

/-- `OP`, bits 31 to 28 of every command. -/
def opField (w : Word) : BitVec 4 := w.extractLsb' 28 4

/-- Bits 27 to 0: `RSV28` in format N, `LEN28` in format L (R71, R72). -/
def low28 (w : Word) : Count := w.extractLsb' 0 28

/-- `RSV20`, bits 27 to 8 of format B. -/
def rsv20 (w : Word) : BitVec 20 := w.extractLsb' 8 20

/-- `IMM8`, bits 7 to 0 of format B (R73). -/
def imm8 (w : Word) : Byte := w.extractLsb' 0 8

/-! ### Decoding (R75) -/

/-- Format N: no operand, `RSV28` must be 0. -/
def formatN (w : Word) (i : Instr) : Except Illegal Instr :=
  if low28 w = 0#28 then .ok i else .error .reservedField

/-- Format B: an 8-bit operand, `RSV20` must be 0. -/
def formatB (w : Word) (f : Byte → Instr) : Except Illegal Instr :=
  if rsv20 w = 0#20 then .ok (f (imm8 w)) else .error .reservedField

/-- `decode` (R75), total. The two names of its error are one outcome of the spec, ILLEGAL (R76). -/
def decode (w : Word) : Except Illegal Instr :=
  if opField w = 0x0#4 then formatN w .nop
  else if opField w = 0x1#4 then .ok (.start (low28 w))
  else if opField w = 0x2#4 then formatB w .byte
  else if opField w = 0x3#4 then formatN w .finish
  else if opField w = 0x4#4 then formatB w .tread
  else if opField w = 0x5#4 then formatN w .status
  else if opField w = 0x6#4 then formatN w .remain
  else .error .reservedOpcode

/-- The instruction the decoder reads from `nbits` bits of value `w`, as the opcode table numbers them: a command is one
32-bit word (R70), so bit k of `w` is bit k of the word; bits from `nbits` up are 0. -/
def decodeTableWord (nbits w : Nat) : Option Instr :=
  match decode (BitVec.ofNat 32 (w % 2 ^ nbits)) with
  | .ok i => some i
  | .error _ => none

/-! ### Encoding (R71) -/

/-- The word of a command: `{OP, RSV28}`, `{OP, LEN28}` or `{OP, RSV20, IMM8}`, reserved bits 0. -/
def encode : Instr → Word
  | .nop => 0x0#4 ++ 0#28
  | .start len => 0x1#4 ++ len
  | .byte b => 0x2#4 ++ (0#20 ++ b)
  | .finish => 0x3#4 ++ 0#28
  | .tread i => 0x4#4 ++ (0#20 ++ i)
  | .status => 0x5#4 ++ 0#28
  | .remain => 0x6#4 ++ 0#28

/-! ### The opcode map (R74) -/

/-- One row of the opcode map: a word `w` is the row's command exactly when `w AND mask = pattern`. -/
structure OpcodeRow where
  mnemonic : String
  pattern : Word
  mask : Word
  deriving DecidableEq, Repr

/-- The row of a command, with its mnemonic as the opcode table spells it. -/
def Instr.row : Instr → OpcodeRow
  | .nop => ⟨"NOP", 0x00000000#32, 0xFFFFFFFF#32⟩
  | .start _ => ⟨"START", 0x10000000#32, 0xF0000000#32⟩
  | .byte _ => ⟨"BYTE", 0x20000000#32, 0xFFFFFF00#32⟩
  | .finish => ⟨"FINISH", 0x30000000#32, 0xFFFFFFFF#32⟩
  | .tread _ => ⟨"TREAD", 0x40000000#32, 0xFFFFFF00#32⟩
  | .status => ⟨"STATUS", 0x50000000#32, 0xFFFFFFFF#32⟩
  | .remain => ⟨"REMAIN", 0x60000000#32, 0xFFFFFFFF#32⟩

/-- The seven rows of the opcode map, in its order. -/
def opcodeRows : List OpcodeRow :=
  [Instr.nop, .start 0, .byte 0, .finish, .tread 0, .status, .remain].map Instr.row

/-! ### The assembler (R77, R78) -/

/-- The number an operand stands for: the number itself, or the character's ASCII code (R77). -/
def AsmOperand.number : AsmOperand → Nat
  | .num n => n
  | .quoted c => c.toNat

/-- The byte an operand stands for (R77). -/
def AsmOperand.byte (v : AsmOperand) : Byte := BitVec.ofNat 8 v.number

/-- One BYTE word per byte, in order (R78). -/
def byteWords (bs : List Byte) : List Word := bs.map fun b => encode (.byte b)

/-- The words of `crc` over the bytes: START n, the bytes, FINISH (R78). -/
def crcWords (bs : List Byte) : List Word :=
  encode (.start (BitVec.ofNat 28 bs.length)) :: (byteWords bs ++ [encode .finish])

/-- The bytes of a text: one per character, its ASCII code (R78). -/
def textBytes (s : List Char) : List Byte := s.map fun c => BitVec.ofNat 8 c.toNat

/-- The words a line in range stands for (R77, R78). -/
def AsmLine.words : AsmLine → List Word
  | .nop => [encode .nop]
  | .start n => [encode (.start (BitVec.ofNat 28 n))]
  | .byte v => [encode (.byte v.byte)]
  | .finish => [encode .finish]
  | .tread i => [encode (.tread (BitVec.ofNat 8 i))]
  | .status => [encode .status]
  | .remain => [encode .remain]
  | .word w => [BitVec.ofNat 32 w]
  | .bytesText s => byteWords (textBytes s)
  | .bytesList vs => byteWords (vs.map AsmOperand.byte)
  | .crcText s => crcWords (textBytes s)
  | .crcList vs => crcWords (vs.map AsmOperand.byte)

/-- Assemble one line: its words, or an assembly error (none), for which no word is emitted (R77). -/
def assemble (l : AsmLine) : Option (List Word) :=
  if l.wellFormed then some l.words else none

/-- Assemble a program line by line; one line in error makes the whole an error. -/
def assembleAll : List AsmLine → Option (List Word)
  | [] => some []
  | l :: ls =>
    match assemble l, assembleAll ls with
    | some ws, some rest => some (ws ++ rest)
    | _, _ => none

end Sys2Proof
end

