-- ==== Sys2Proof/Config.lean ====
section
/-! DEFINITION. The implementation parameters (spec/00_scope.md R10), the turns of the three agents (R15) and the
values the spec leaves open: the depth of the response queue (log 2), the order of the turns (log 1), and two results in
states that are never reached (log 7). -/

namespace Sys2Proof

/-- One turn: which agent takes the next step (R15), or the host asserting `rst` for one rising edge (R240).
DEDUCED (log 4): R15 lets any enabled agent step next; one turn is one event (R51). -/
inductive Move where
  /-- GEN's turn (R102). -/
  | gen
  /-- ENG's turn (R53, R79). -/
  | eng
  /-- HOST takes the head record of the response queue: `rsp_ready = 1` (R54). -/
  | pop
  /-- HOST asserts reset: a rising edge with `rst = 1` (R240). -/
  | reset
  deriving DecidableEq, Repr, Inhabited

namespace Config

/-- `POLY`, the generator polynomial, the x^32 term implicit (R2, R10, R11). -/
def poly : Word := 0x04C11DB7#32

/-- `INIT`, the initial accumulator (R2, R10). There is no final XOR and no reflection, so neither has a definition. -/
def init : Word := 0x00000000#32

/-- `NTBL`, the number of table entries (R10). -/
def nTbl : Nat := 256

/-- One less than `RSP_DEPTH`, which the spec leaves OPEN (R10, D15, U8): no value is fixed. DESIGN CHOICE (log 2), safe. -/
opaque rspDepthPred : Nat

/-- `RSP_DEPTH`, the capacity of the response queue: any integer of at least 1 (R10, D15). -/
def rspDepth : Nat := rspDepthPred + 1

/-- FREE VALUE (log 1), safe: the turn taken where the state's schedule is empty, for the `n`-th such turn. The spec fixes
no order between the agents and none on the host (R15, R55, U10, U12, U16). -/
opaque freeMove : Nat → Move

/-- FREE VALUE (log 7), safe: `CNT + 1` where it does not fit 28 bits, given `LEN`. The spec shows that it always fits (R23),
so it states no result there; no state that meets R34 uses it. -/
opaque cntPastRange : Count → Count

/-- FREE VALUE (log 7), safe: `LEN - CNT` where `CNT` is above `LEN`, given both. The spec shows that this never is (R34 item
1), so it states no result there; no state that meets R34 uses it. -/
opaque remainBelowZero : Count → Count → Count

end Config

end Sys2Proof
end

