-- ==== Sys2Proof/Machine/State.lean ====
section
/-! DEFINITION. The state: the block's tuple `(ACC, LEN, CNT, SST, ERR, TBL, GIDX, TRDY, RSPQ)` (spec/10_state.md R20), the
environment's command list, position and popped records (R31; spec/70_reset_and_hazards.md R250), and the model's own
fields (logs 1 and 5). -/

namespace Sys2Proof.Machine

/-- `SST`, the session state (R24). Value 3 is never held, so it has no constructor (log 17). -/
inductive SessionState where
  | idle
  | active
  | error
  deriving DecidableEq, Repr

/-- The tag of a response record (R29). Tag 3 is never produced, so it has no constructor (log 17). -/
inductive Tag where
  /-- Tag 0: the data is a checksum. -/
  | crc
  /-- Tag 1: the data is the result of TREAD, STATUS or REMAIN. -/
  | data
  /-- Tag 2: the data is an error code. -/
  | error
  deriving DecidableEq, Repr

/-- A response record `(tag, data)` (R29). -/
structure Record where
  tag : Tag
  data : Word
  deriving DecidableEq, Repr

/-- The error codes that are produced (spec/60_exceptions.md R200); 5 to 15 are reserved and never produced. -/
inductive ErrCode where
  | illegalCmd
  | noSession
  | overrun
  | underrun
  deriving DecidableEq, Repr

/-- `TBL`: the written entries as (index, value) pairs, indices strictly rising; an index that is not listed is unwritten
(R26, log 6). -/
abbrev Table := List (Nat × Word)

/-- The one canonical form of a table: indices strictly rising, each below 256. -/
abbrev Table.wf (t : Table) : Prop :=
  t.Pairwise (fun a b => a.1 < b.1) ∧ ∀ p ∈ t, p.1 < Config.nTbl

/-- Everything the spec gives the block and its environment, and the three fields of the model's own that come last. -/
structure State where
  /-- `ACC`, the accumulator (R21). -/
  acc : Word
  /-- `LEN`, the declared length of the session (R22). -/
  len : Count
  /-- `CNT`, the bytes accumulated in the session (R23). -/
  cnt : Count
  /-- `SST`, the session state (R24). -/
  sst : SessionState
  /-- `ERR`, the first error code since the last START, FINISH or reset (R25). -/
  err : BitVec 4
  /-- `TBL`, the lookup table (R26). -/
  tbl : Table
  /-- `GIDX`, the generator index (R27). -/
  gidx : BitVec 9
  /-- `TRDY`, the table-ready flag (R28). -/
  trdy : Bool
  /-- `RSPQ`, the response queue, head first (R29). -/
  rspq : List Record
  /-- The host's list of command words (R31). -/
  program : List Word
  /-- The host's position in that list: the only program counter (R31). -/
  pos : Nat
  /-- The records the host has popped, first popped first: the observation of a run (R250). -/
  popped : List Record
  /-- MODEL'S OWN (log 1): the turns already settled, the next one first. -/
  schedule : List Move
  /-- MODEL'S OWN (log 1): how many free turns have been taken, the argument of `Config.freeMove`. -/
  turn : Nat
  /-- MODEL'S OWN (log 5): whether a reset has happened since power-up (R241). -/
  resetDone : Bool
  deriving DecidableEq, Repr

/-- The reasons the machine stops with a fault. -/
inductive Fault where
  /-- `fault(TableUnwritten)` (spec/40_table_generator.md R104), raised by BYTE and TREAD reading entry `i` while it is
  unwritten. Safe: the spec gives no value, and no run from reset reaches it (R251). -/
  | tableUnwritten (i : Byte)
  deriving DecidableEq, Repr

/-- The reasons a step has no meaning. -/
inductive Refusal where
  /-- Raised only by an arm of `exec` whose instruction has no meaning yet. Safe: no next state is claimed. -/
  | notModelled (mnemonic : String)
  /-- Raised by a step other than reset before the first reset after power-up (spec/70_reset_and_hazards.md R241, R251;
  log 5). Safe: the spec gives such a step no meaning. -/
  | beforeFirstReset
  deriving DecidableEq, Repr

/-- The state right after reset (R36), with a host that has offered and popped nothing (log 14). -/
def State.reset : State where
  acc := 0x00000000#32
  len := 0#28
  cnt := 0#28
  sst := .idle
  err := 0#4
  tbl := []
  gidx := 0#9
  trdy := false
  rspq := []
  program := []
  pos := 0
  popped := []
  schedule := []
  turn := 0
  resetDone := true

end Sys2Proof.Machine
end

