-- ==== Sys2Proof/Machine/Operands.lean ====
section
/-! DEFINITION. The operand forms and the notation of spec/00_scope.md R12, R13: zero extension, the byte lanes of the
accumulator, the codes of the enumerations. -/

namespace Sys2Proof.Machine

/-- `zext_32(v)` (R13). -/
def zext32 {n : Nat} (v : BitVec n) : Word := v.setWidth 32

/-- `mask32(v << 1)` on 32 bits: the top bit is lost (R13, R101). -/
def shl1 (v : Word) : Word := v <<< 1

/-- `mask32(acc << 8)`, that is `{acc[23:0], 0x00}` (spec/42_accumulate.md R141). -/
def shl8 (acc : Word) : Word := acc <<< 8

/-- `acc[31:24]`, the top byte (R141). -/
def topByte (acc : Word) : Byte := acc.extractLsb' 24 8

/-- `v << 24` of an 8-bit value: the byte in bits 31 to 24 (R101, R144). -/
def inTopByte (b : Byte) : Word := zext32 b <<< 24

/-- The table index of an update: `acc[31:24] XOR b` (R141). -/
def tableIndex (acc : Word) (b : Byte) : Byte := topByte acc ^^^ b

/-- `CNT + 1`, an exact operation (R13); where it would not fit, a free value (log 7). -/
def cntPlusOne (cnt len : Count) : Count :=
  if cnt.toNat + 1 < 2 ^ 28 then cnt + 1#28 else Config.cntPastRange len

/-- `LEN - CNT`, an exact operation (R13); where it would be negative, a free value (log 7). -/
def lenMinusCnt (len cnt : Count) : Count :=
  if cnt.toNat ≤ len.toNat then len - cnt else Config.remainBelowZero len cnt

/-- The 2-bit value of `SST` (spec/10_state.md R24). -/
def SessionState.code : SessionState → BitVec 2
  | .idle => 0#2
  | .active => 1#2
  | .error => 2#2

/-- The 2-bit value of a tag (R29). -/
def Tag.code : Tag → BitVec 2
  | .crc => 0#2
  | .data => 1#2
  | .error => 2#2

/-- The 4-bit value of an error code (spec/60_exceptions.md R200). -/
def ErrCode.code : ErrCode → BitVec 4
  | .illegalCmd => 1#4
  | .noSession => 2#4
  | .overrun => 3#4
  | .underrun => 4#4

/-- The byte the caller puts at offset `k` of the 4-byte checksum field, `result[8k+7:8k]` (spec/20_memory.md R56). The
placement is the caller's duty (R6). -/
def fieldByte (result : Word) (k : Fin 4) : Byte := result.extractLsb' (8 * k.val) 8

end Sys2Proof.Machine
end

