-- ==== Sys2Proof/Machine/Flags.lean ====
section
/-! DEFINITION. The status bits: the STATUS word (spec/10_state.md R33) and the output signals (spec/20_memory.md R51). The
block has no arithmetic flags (R32). -/

namespace Sys2Proof.Machine

/-- The STATUS word: `(zext_32(ERR) << 4) OR (zext_32(TRDY) << 2) OR zext_32(SST)` (R33). -/
def State.statusWord (s : State) : Word :=
  (zext32 s.err <<< 4) ||| (zext32 (BitVec.ofBool s.trdy) <<< 2) ||| zext32 s.sst.code

/-- `cmd_ready = (TRDY = 1) AND (|RSPQ| < RSP_DEPTH) AND (rst = 0)` (R53). It does not depend on the offered word. -/
def State.cmdReady (s : State) (rst : Bool) : Bool :=
  s.trdy && decide (s.rspq.length < Config.rspDepth) && !rst

/-- `rsp_valid`: the queue is not empty (R51, R54). -/
def State.rspValid (s : State) : Bool := !s.rspq.isEmpty

/-- `rsp_tag`, while `rsp_valid = 1` (R51); with an empty queue there is no head record and no value is claimed (log 16). -/
def State.rspTag (s : State) : Option (BitVec 2) := s.rspq.head?.map fun r => r.tag.code

/-- `rsp_data`, while `rsp_valid = 1` (R51, log 16). -/
def State.rspData (s : State) : Option Word := s.rspq.head?.map Record.data

/-- `tbl_ready`, equal to `TRDY` (R51). -/
def State.tblReady (s : State) : Bool := s.trdy

/-- `err`, 1 exactly when `SST = ERROR` (R51). -/
def State.errSignal (s : State) : Bool := decide (s.sst = .error)

/-- `cmd_valid`: the host offers a word while its list is not used up (R31, R52). -/
def State.cmdValid (s : State) : Bool := decide (s.pos < s.program.length)

end Sys2Proof.Machine
end

