-- ==== Sys2Proof/Machine/Ops.lean ====
section
/-! DEFINITION. The operations over the state that the meanings and the agents share: the table's read and write
(spec/40_table_generator.md R102, R104), `Push` (spec/00_scope.md R14), the error entry (spec/60_exceptions.md R204), opening
and clearing a session, the reset of the block, and the host's bookkeeping. There is no return from an exception: the ways
out of ERROR are FINISH, START and reset (R205). -/

namespace Sys2Proof.Machine

/-- The value listed for an index, none where the entry is unwritten. -/
def Table.read : Table → Nat → Option Word
  | [], _ => none
  | (k, v) :: t, i => if k = i then some v else Table.read t i

/-- The table with `v` written at an index, its indices still rising. -/
def Table.write : Table → Nat → Word → Table
  | [], i, v => [(i, v)]
  | (k, u) :: t, i, v =>
    if i < k then (i, v) :: (k, u) :: t
    else if i = k then (i, v) :: t
    else (k, u) :: Table.write t i v

/-- `TblRead(i)`: the entry's value, none where it is unwritten (R104). -/
def State.tblRead (s : State) (i : Byte) : Option Word := Table.read s.tbl i.toNat

/-- `Push(tag, data)`: one record at the tail of the response queue (R14, R29). The slot was reserved by R53. -/
def State.push (s : State) (tag : Tag) (data : Word) : State :=
  { s with rspq := s.rspq ++ [⟨tag, data⟩] }

/-- The error entry, `raise Err(code)` (R204): the first error's code is kept (R208), nothing else is written. -/
def State.raiseErr (s : State) (code : ErrCode) : State :=
  if s.sst = .error then s else { s with sst := .error, err := code.code }

/-- What START writes (spec/41_session_control.md R121). -/
def State.openSession (s : State) (len : Count) : State :=
  { s with acc := Config.init, len := len, cnt := 0#28, sst := .active, err := 0#4 }

/-- What FINISH writes after its record (R122). -/
def State.clearSession (s : State) : State :=
  { s with acc := 0#32, len := 0#28, cnt := 0#28, sst := .idle, err := 0#4 }

/-- What an accumulating BYTE writes: the new accumulator and `CNT + 1` (spec/42_accumulate.md R140). -/
def State.accumulate (s : State) (acc : Word) : State :=
  { s with acc := acc, cnt := cntPlusOne s.cnt s.len }

/-- Reset of the block (spec/10_state.md R36, spec/70_reset_and_hazards.md R240): every element of R20 at its reset value. The
host's side is not the block's and stays (log 9). -/
def State.resetBlock (s : State) : State :=
  { s with
    acc := State.reset.acc, len := State.reset.len, cnt := State.reset.cnt, sst := State.reset.sst
    err := State.reset.err, tbl := State.reset.tbl, gidx := State.reset.gidx, trdy := State.reset.trdy
    rspq := State.reset.rspq, resetDone := true }

/-- The word the host offers: the one at its position (R31, R52). -/
def State.offered (s : State) : Option Word := s.program[s.pos]?

/-- The host's position after an accepted command (R31, spec/30_encoding.md R79). -/
def State.advancePos (s : State) : State := { s with pos := s.pos + 1 }

/-- The next turn: the first settled one, or the free value (log 1). -/
def State.nextMove (s : State) : Move :=
  match s.schedule with
  | [] => Config.freeMove s.turn
  | m :: _ => m

/-- The state with that turn used up; no field of the spec changes (log 1). -/
def State.takeMove (s : State) : State :=
  match s.schedule with
  | [] => { s with turn := s.turn + 1 }
  | _ :: ms => { s with schedule := ms }

/-- HOST's step (spec/20_memory.md R54): the head record leaves the queue; with an empty queue nothing changes. -/
def State.popHead (s : State) : State :=
  match s.rspq with
  | [] => s
  | r :: rs => { s with rspq := rs, popped := s.popped ++ [r] }

end Sys2Proof.Machine
end

