-- ==== Sys2Proof/Machine/Generator.lean ====
section
/-! DEFINITION. The table generator: `GenEntry` and GEN's step (spec/40_table_generator.md R100 to R102). -/

namespace Sys2Proof.Machine

/-- One step of shift and conditional XOR: the top bit is tested before the shift (R101). -/
def reduceStep (r : Word) : Word :=
  if r.getLsbD 31 then shl1 r ^^^ Config.poly else shl1 r

/-- Eight such steps (R100). -/
def reduce8 (r : Word) : Word := reduceStep^[8] r

/-- `GenEntry(i)`: `i << 24` reduced by eight steps (R101). -/
def genEntry (i : Byte) : Word := reduce8 (inTopByte i)

/-- GEN has a step exactly when `GIDX < 256`, with `rst = 0` (R102). -/
def State.genEnabled (s : State) : Bool := decide (s.gidx.toNat < Config.nTbl)

/-- GEN's step: `TBL[GIDX]` is written, `GIDX` goes up, and `TRDY` is set on the last step (R102). -/
def State.genWrite (s : State) : State :=
  { s with
    tbl := Table.write s.tbl s.gidx.toNat (genEntry (s.gidx.extractLsb' 0 8))
    gidx := s.gidx + 1#9
    trdy := if s.gidx + 1#9 = 256#9 then true else s.trdy }

/-- GEN's turn: its step where it has one, else a hold (R14, R102). -/
def State.genTurn (s : State) : State := if s.genEnabled then s.genWrite else s

/-- The table GEN leaves after its 256 steps: every entry is `GenEntry` of its index (R105). -/
def builtTable : Table :=
  (List.range Config.nTbl).map fun i => (i, genEntry (BitVec.ofNat 8 i))

end Sys2Proof.Machine
end

