-- ==== Sys2Proof/Machine/Checksum.lean ====
section
/-! DEFINITION. The update step and the checksum as functions (spec/42_accumulate.md R141, R142, R144). -/

namespace Sys2Proof.Machine

/-- `mask32(acc << 8) XOR v`, with `v` the table entry read (R141). -/
def updWith (acc v : Word) : Word := shl8 acc ^^^ v

/-- `Upd(acc, b)` with the table full: entry i is `GenEntry(i)` (R105, R141). -/
def upd (acc : Word) (b : Byte) : Word := updWith acc (genEntry (tableIndex acc b))

/-- `crc32(s)` (R142): from 0, one update per byte, first to last; the end value is returned as it stands. -/
def crc32 (bs : List Byte) : Word := bs.foldl upd Config.init

/-- One byte of the bit-at-a-time form: XOR into the top byte, then eight steps (R144). -/
def updBitwise (acc : Word) (b : Byte) : Word := reduce8 (acc ^^^ inTopByte b)

/-- `crc32_bitwise(s)` (R144). -/
def crc32Bitwise (bs : List Byte) : Word := bs.foldl updBitwise 0x00000000#32

end Sys2Proof.Machine
end

