-- ==== Sys2Proof/Machine/Accumulate.lean ====
section
/-! DEFINITION. BYTE (spec/42_accumulate.md R140). -/

namespace Sys2Proof.Machine

/-- BYTE: NO_SESSION in IDLE, discarded in ERROR, OVERRUN with `CNT = LEN`, else one update of the accumulator through the
table read of R141; an unwritten entry is the fault of R104. The checks stand in the order of R207. -/
def execByte (b : Byte) (s : State) : Host.Outcome State Fault Refusal :=
  match s.sst with
  | .idle => .next (s.raiseErr .noSession)
  | .error => .next s
  | .active =>
    if s.cnt = s.len then .next (s.raiseErr .overrun)
    else
      match s.tblRead (tableIndex s.acc b) with
      | some v => .next (s.accumulate (updWith s.acc v))
      | none => .fault (.tableUnwritten (tableIndex s.acc b))

end Sys2Proof.Machine
end

