-- ==== Sys2Proof/Machine/Query.lean ====
section
/-! DEFINITION. The queries TREAD, STATUS, REMAIN (spec/43_query.md R160 to R162). Each writes `RSPQ` only. -/

namespace Sys2Proof.Machine

/-- TREAD: pushes the table entry; an unwritten entry is the fault of R104 (R160). -/
def execTread (i : Byte) (s : State) : Host.Outcome State Fault Refusal :=
  match s.tblRead i with
  | some v => .next (s.push .data v)
  | none => .fault (.tableUnwritten i)

/-- STATUS: pushes the status word and clears nothing (R161). -/
def execStatus (s : State) : Host.Outcome State Fault Refusal :=
  .next (s.push .data s.statusWord)

/-- REMAIN: pushes `zext_32(LEN - CNT)` (R162); `CNT <= LEN` by R34 item 1, and elsewhere the difference is free (log 7). -/
def execRemain (s : State) : Host.Outcome State Fault Refusal :=
  .next (s.push .data (zext32 (lenMinusCnt s.len s.cnt)))

end Sys2Proof.Machine
end

