-- ==== Sys2Proof/Machine/Session.lean ====
section
/-! DEFINITION. Session control: NOP, START, FINISH (spec/41_session_control.md R120 to R122), and what ENG does with an
ILLEGAL word (spec/60_exceptions.md R201). -/

namespace Sys2Proof.Machine

/-- NOP: no state is written (R120). -/
def execNop (s : State) : Host.Outcome State Fault Refusal := .next s

/-- START: opens a session of the declared length, in every session state (R121). -/
def execStart (len : Count) (s : State) : Host.Outcome State Fault Refusal :=
  .next (s.openSession len)

/-- The one record FINISH pushes: the checksum, or UNDERRUN, or the raised error's code, or NO_SESSION (R122, R206). -/
def State.finishRecord (s : State) : Record :=
  if s.sst = .active ∧ s.cnt = s.len then ⟨.crc, s.acc⟩
  else if s.sst = .active then ⟨.error, zext32 ErrCode.underrun.code⟩
  else if s.sst = .error then ⟨.error, zext32 s.err⟩
  else ⟨.error, zext32 ErrCode.noSession.code⟩

/-- FINISH: pushes its record, clears the session and goes to IDLE (R122). -/
def execFinish (s : State) : Host.Outcome State Fault Refusal :=
  .next (s.push s.finishRecord.tag s.finishRecord.data).clearSession

/-- An ILLEGAL word: `raise Err(1)` and no other effect (R201). -/
def execIllegal (s : State) : Host.Outcome State Fault Refusal := .next (s.raiseErr .illegalCmd)

end Sys2Proof.Machine
end

