-- ==== Sys2Proof/Machine/Dispatch.lean ====
section
/-! DEFINITION. What each command does once ENG has accepted it (spec/30_encoding.md R79): one arm per command. -/

namespace Sys2Proof.Machine

def exec (i : Instr) (s : State) : Host.Outcome State Fault Refusal :=
  match i with
  | .nop => Sys2Proof.Machine.execNop s
  | .start len => Sys2Proof.Machine.execStart len s
  | .byte b => Sys2Proof.Machine.execByte b s
  | .finish => Sys2Proof.Machine.execFinish s
  | .tread idx => Sys2Proof.Machine.execTread idx s
  | .status => Sys2Proof.Machine.execStatus s
  | .remain => Sys2Proof.Machine.execRemain s

end Sys2Proof.Machine
end

