-- ==== Sys2Proof/Machine/Agents.lean ====
section
/-! DEFINITION. The turns of the agents (spec/00_scope.md R15): ENG's step (spec/30_encoding.md R79), the choice of the turn,
and how a command or a program is put before the machine. -/

namespace Sys2Proof.Machine

/-- Decode, then perform: the rule of the decoded command, or the error entry of an ILLEGAL word (R79). -/
def perform (w : Word) (s : State) : Host.Outcome State Fault Refusal :=
  match decode w with
  | .ok i => exec i s
  | .error _ => execIllegal s

/-- ENG's turn. It has a step exactly when a word is offered and `cmd_ready = 1` with `rst = 0` (spec/20_memory.md R53): the
word is performed and the host's position goes up by one, both in one step (R52, R62). Otherwise it holds. -/
def engTurn (s : State) : Host.Outcome State Fault Refusal :=
  match s.offered with
  | some w => if s.cmdReady false then perform w s.advancePos else .next s
  | none => .next s

/-- What has a meaning only once the block has been reset (spec/70_reset_and_hazards.md R241, log 5). -/
def State.afterReset (s : State) (o : Host.Outcome State Fault Refusal) : Host.Outcome State Fault Refusal :=
  if s.resetDone then o else .refused .beforeFirstReset

/-- One turn: the agent's step where it has one, else a hold (R14, R15); or the edge with `rst = 1` (R240). -/
def runMove (m : Move) (s : State) : Host.Outcome State Fault Refusal :=
  match m with
  | .gen => s.afterReset (.next s.genTurn)
  | .eng => s.afterReset (engTurn s)
  | .pop => s.afterReset (.next s.popHead)
  | .reset => .next s.resetBlock

/-- The block made ready for a command where it is not: after a reset, the table built (R242), and room in the queue, its
records handed to the host (R53, R54). Log 10. -/
def State.makeReady (s : State) : State :=
  { s with
    resetDone := true
    tbl := if s.trdy then s.tbl else builtTable
    gidx := if s.trdy then s.gidx else 256#9
    trdy := true
    rspq := if s.rspq.length < Config.rspDepth then s.rspq else []
    popped := if s.rspq.length < Config.rspDepth then s.popped else s.popped ++ s.rspq }

/-- The word put at the host's position, and ENG's turn put first (log 10). A list shorter than the position is filled up
with NOP words. -/
def State.offerWord (s : State) (w : Word) : State :=
  { s with
    program :=
      s.program.take s.pos ++ List.replicate (s.pos - s.program.length) 0#32
        ++ w :: s.program.drop (s.pos + 1)
    schedule := .eng :: s.schedule }

/-- The launch premise of a run (R241, R250): the reset state with the host's command list. -/
def State.launch (program : List Word) : State := { State.reset with program := program }

end Sys2Proof.Machine
end

