-- ==== Sys2Proof/Machine/Step.lean ====
section
/-! DEFINITION. One step of the machine: the next turn is taken (spec/00_scope.md R15). -/

namespace Sys2Proof.Machine

/-- One step: the next turn, taken from the schedule or free (log 1), is run on the state with that turn used up. -/
def step (s : State) : Host.Outcome State Fault Refusal := runMove s.nextMove s.takeMove

/-- `s` with the instruction of `nbits` bits and value `w` offered at the host's position, the block ready to accept it, and
ENG's turn next, so that the next step runs exactly it (log 10). -/
def State.withFetchWord (s : State) (nbits w : Nat) : State :=
  s.makeReady.offerWord (BitVec.ofNat 32 (w % 2 ^ nbits))

end Sys2Proof.Machine
end

