-- ==== Sys2Proof/Machine/Run.lean ====
section
/-! DEFINITION. Runs (spec/70_reset_and_hazards.md R249 to R251): the machine under an endless sequence of turns, the premises
on that sequence (no reset after the start, a host that pops every record, weak fairness), the end of a run, a hang, and the
results a run can have. Log 18. -/

namespace Sys2Proof.Machine

/-! ### What has a step, and what waits -/

/-- ENG has a step: a word is offered and the port is ready (R53). -/
def State.engEnabled (s : State) : Bool := s.offered.isSome && s.cmdReady false

/-- Whether the agent whose turn it is has a step (R15): GEN by R102, ENG by R53, HOST's pop by R54. HOST may assert `rst` at
any edge (R55). -/
def State.enabled (s : State) : Move → Bool
  | .gen => s.genEnabled
  | .eng => s.engEnabled
  | .pop => s.rspValid
  | .reset => true

/-- The hold of R251: a word is offered and ENG waits, on `TRDY` or on a full queue (R245, R246). -/
def State.engHolds (s : State) : Bool := s.offered.isSome && !s.cmdReady false

/-! ### The machine under a sequence of turns -/

/-- The state with its next turn settled. -/
def State.withTurn (s : State) (m : Move) : State := { s with schedule := [m] }

/-- What the machine has come to from `start` after the first `n` of the given turns; the first fault or refusal stops it. -/
def runFrom (start : State) (turns : Nat → Move) : Nat → Host.Outcome State Fault Refusal
  | 0 => .next start
  | n + 1 =>
    match runFrom start turns n with
    | .next s => step (s.withTurn (turns n))
    | .fault f => .fault f
    | .refused r => .refused r

/-- A run: the host's command list executed from the reset state under the given turns (R241, R250). -/
def runAfter (program : List Word) (turns : Nat → Move) (n : Nat) : Host.Outcome State Fault Refusal :=
  runFrom (State.launch program) turns n

/-! ### The premises of a run -/

/-- The host does not assert `rst` after the start: R250 says nothing about a run in which it does. -/
def NoResetAfterStart (turns : Nat → Move) : Prop := ∀ n, turns n ≠ .reset

/-- A host that pops every record (R250): whenever the queue holds a record, a pop comes then or later. -/
def HostPopsEveryRecord (program : List Word) (turns : Nat → Move) : Prop :=
  ∀ n s, runAfter program turns n = .next s → s.rspq ≠ [] → ∃ k, n ≤ k ∧ turns k = .pop

/-- Weak fairness of one agent (R249): if from some point on it always has a step, a turn of its comes after that point. -/
def WeaklyFair (program : List Word) (turns : Nat → Move) (m : Move) : Prop :=
  ∀ n, (∀ k s, n ≤ k → runAfter program turns k = .next s → s.enabled m = true) →
    ∃ k, n ≤ k ∧ turns k = m

/-! ### The end of a run and its results -/

/-- The end of a run: the host's position is the list's length, `GIDX = 256`, and every record is popped (R250). -/
def State.RunEnded (s : State) : Prop :=
  s.pos = s.program.length ∧ s.gidx.toNat = Config.nTbl ∧ s.rspq = []

/-- The observation of a run: the records popped, in order, and the final state (R250). -/
def State.observation (s : State) : List Record × State := (s.popped, s)

/-- The results of a run that a model distinguishes (R251). A session error is no result of its own: it is a record among those
popped, and a hold is no result: it is `State.engHolds` of a state on the way. -/
inductive RunResult where
  /-- The run reaches its end, with this observation (R250). -/
  | ended (records : List Record) (final : State)
  /-- A step faults (R104). -/
  | fault (f : Fault)
  /-- A step is refused (R241). -/
  | refused (r : Refusal)
  /-- The run goes on for ever and never reaches its end (R250). -/
  | hang

/-- The run of a command list under the given turns has the result `o` (R250, R251). -/
def RunGives (program : List Word) (turns : Nat → Move) (o : RunResult) : Prop :=
  match o with
  | .ended records final =>
    ∃ n s, runAfter program turns n = .next s ∧ s.RunEnded ∧ s.observation = (records, final)
  | .fault f => ∃ n, runAfter program turns n = .fault f
  | .refused r => ∃ n, runAfter program turns n = .refused r
  | .hang => ∀ n, ∃ s, runAfter program turns n = .next s ∧ ¬s.RunEnded

end Sys2Proof.Machine
end

