-- ==== Sys2Proof/Safety.lean ====
section
/-! DEFINITION. The terms claims use: the invariant of spec/10_state.md R34, the bytes of the open session, the commands
of a session, and a number of steps of the machine. -/

namespace Sys2Proof.Machine

/-- The invariants of R34, items 1 to 6 and 8, with the table's canonical form and the position's range (R31). Item 7 is
`State.TracksBytes`. -/
structure State.Inv (s : State) : Prop where
  /-- The table is in canonical form (log 6). -/
  tblWf : Table.wf s.tbl
  /-- `GIDX` holds 0 to 256 (R27). -/
  gidxLe : s.gidx.toNat ≤ Config.nTbl
  /-- Item 1. -/
  cntLe : s.cnt.toNat ≤ s.len.toNat
  /-- Item 2. -/
  idleClear : s.sst = .idle → s.acc = 0#32 ∧ s.len = 0#28 ∧ s.cnt = 0#28 ∧ s.err = 0#4
  /-- Item 3. -/
  activeNoErr : s.sst = .active → s.err = 0#4
  /-- Item 4. -/
  errorCode : s.sst = .error → s.err = 1#4 ∨ s.err = 2#4 ∨ s.err = 3#4
  /-- Item 5. -/
  readyIff : s.trdy = true ↔ s.gidx.toNat = Config.nTbl
  /-- Item 6, the written entries. -/
  written : ∀ i : Byte, i.toNat < s.gidx.toNat → s.tblRead i = some (genEntry i)
  /-- Item 6, the unwritten entries. -/
  unwritten : ∀ i : Byte, s.gidx.toNat ≤ i.toNat → s.tblRead i = none
  /-- Item 8; that no record has tag 3 is the type `Tag`. -/
  room : s.rspq.length ≤ Config.rspDepth
  /-- The position never passes the end of the list (R31). -/
  posLe : s.pos ≤ s.program.length

/-- R34 item 7: `bs` is as long as `CNT` says and `ACC` is its checksum. -/
def State.TracksBytes (s : State) (bs : List Byte) : Prop :=
  bs.length = s.cnt.toNat ∧ s.acc = crc32 bs

/-- The word ENG accepts in the next step, if it accepts one: ENG's turn, after a first reset, a word offered, and
`cmd_ready` (R53). -/
def State.acceptedWord (s : State) : Option Word :=
  if s.nextMove = .eng ∧ s.resetDone = true ∧ s.cmdReady false = true then s.offered else none

/-- The bytes accumulated since the last START, after the performance of a decoded word, given those before it. -/
def State.bytesAfter (s : State) (bs : List Byte) : Except Illegal Instr → List Byte
  | .ok (.start _) => []
  | .ok .finish => []
  | .ok (.byte b) => if s.sst = .active ∧ s.cnt ≠ s.len then bs ++ [b] else bs
  | .ok .nop => bs
  | .ok (.tread _) => bs
  | .ok .status => bs
  | .ok .remain => bs
  | .error _ => bs

/-- The bytes accumulated since the last START, after the next step of `s`, given those before it (R34 item 7). -/
def State.bytesAfterStep (s : State) (bs : List Byte) : List Byte :=
  if s.nextMove = .reset then []
  else
    match s.acceptedWord with
    | some w => s.bytesAfter bs (decode w)
    | none => bs

/-- The state FINISH leaves when `r` is its record (R122). -/
def State.finishedWith (s : State) (r : Record) : State :=
  { s with
    rspq := s.rspq ++ [r], acc := 0#32, len := 0#28, cnt := 0#28, sst := .idle, err := 0#4 }

/-- The whole table is built: every entry reads as `GenEntry` of its index (R105). -/
def State.TableBuilt (s : State) : Prop := ∀ i : Byte, s.tblRead i = some (genEntry i)

/-- The commands of one call of the source's function: START with the length, the bytes, FINISH (R143). -/
def sessionCommands (bs : List Byte) : List Instr :=
  .start (BitVec.ofNat 28 bs.length) :: (bs.map .byte ++ [.finish])

/-- `n` steps of the machine, stopping at the first fault or refusal. -/
def runSteps (n : Nat) (s : State) : Host.Outcome State Fault Refusal := Host.Core.run Sys2Proof.core n s

/-- A safe step stops with no fault (R251). -/
def State.StepSafe (s : State) : Prop := ∀ f, step s ≠ .fault f

end Sys2Proof.Machine
end

