-- ==== Sys2Proof/Certificates/Slice0/Obligations.lean ====
section
/-! DEFINITION. The statements for the provers. Each docstring names the rule of spec/ it formalises. -/

open Sys2Proof Sys2Proof.Machine

/-! ### Encoding (spec/30_encoding.md) -/

/-- R71 to R75: decoding the word of any command gives that command back, with every operand. Every `Instr` is well formed. -/
def Obligations.DecodeOfEncodeReturnsInstr : Prop :=
  ∀ i : Instr, i.wellFormed = true ∧ decode (encode i) = .ok i

/-- R71, R75: a word that decodes to a command is that command's word, so no bit of a legal word is ignored. -/
def Obligations.EncodeOfDecodedReturnsWord : Prop :=
  ∀ (w : Word) (i : Instr), decode w = .ok i → encode i = w

/-- R74, whole: the rows, that a word is a row's command exactly when its masked bits are the row's match, that no two rows
match one word, and that the opcodes 0x7 to 0xF are no command's. -/
def Obligations.WordIsCommandExactlyWhenMaskMatches : Prop :=
  opcodeRows =
      [⟨"NOP", 0x00000000#32, 0xFFFFFFFF#32⟩, ⟨"START", 0x10000000#32, 0xF0000000#32⟩,
        ⟨"BYTE", 0x20000000#32, 0xFFFFFF00#32⟩, ⟨"FINISH", 0x30000000#32, 0xFFFFFFFF#32⟩,
        ⟨"TREAD", 0x40000000#32, 0xFFFFFF00#32⟩, ⟨"STATUS", 0x50000000#32, 0xFFFFFFFF#32⟩,
        ⟨"REMAIN", 0x60000000#32, 0xFFFFFFFF#32⟩] ∧
    (∀ (w : Word), ∀ r ∈ opcodeRows,
      (w &&& r.mask = r.pattern ↔ ∃ i, decode w = .ok i ∧ i.row = r)) ∧
    (∀ (w : Word), ∀ r ∈ opcodeRows, ∀ r' ∈ opcodeRows,
      w &&& r.mask = r.pattern → w &&& r'.mask = r'.pattern → r = r') ∧
    (∀ (w : Word), 7 ≤ (opField w).toNat → ∀ i, decode w ≠ .ok i)

/-- R76 and R201: the illegal words are exactly those with a reserved opcode or a non-zero reserved field; performing one is
`raise Err(1)` and nothing else; the all-zero word is NOP. -/
def Obligations.IllegalWordsAreTheReservedOnesAndRaise : Prop :=
  (∀ w : Word,
      (∃ e, decode w = .error e) ↔
        7 ≤ (opField w).toNat ∨
          ((opField w = 0#4 ∨ opField w = 3#4 ∨ opField w = 5#4 ∨ opField w = 6#4) ∧ low28 w ≠ 0#28) ∨
          ((opField w = 2#4 ∨ opField w = 4#4) ∧ rsv20 w ≠ 0#20)) ∧
    (∀ (w : Word) (e : Illegal) (s : State), decode w = .error e → s.sst ≠ .error →
      perform w s = .next { s with sst := .error, err := 1#4 }) ∧
    (∀ (w : Word) (e : Illegal) (s : State), decode w = .error e → s.sst = .error →
      perform w s = .next s) ∧
    decode 0x00000000#32 = .ok .nop

/-- spec/95_test_vectors.md section 6: words of each family, written out from the formats, decode to their commands. -/
def Obligations.WordsWrittenOutDecodeRight : Prop :=
  decode 0x00000000#32 = .ok .nop ∧ decode 0x1FFFFFFF#32 = .ok (.start 0x0FFFFFFF#28) ∧
    decode 0x2000004F#32 = .ok (.byte 0x4F#8) ∧ decode 0x30000000#32 = .ok .finish ∧
    decode 0x400000AB#32 = .ok (.tread 0xAB#8) ∧ decode 0x50000000#32 = .ok .status ∧
    decode 0x60000000#32 = .ok .remain ∧ decode 0x20000100#32 = .error .reservedField ∧
    decode 0x70000000#32 = .error .reservedOpcode

/-- R77: the words of the seven mnemonics and of `.word`, and an assembly error, with no word, for an operand out of range. -/
def Obligations.AssemblerEmitsWordOrError : Prop :=
  assemble .nop = some [0x00000000#32] ∧ assemble .finish = some [0x30000000#32] ∧
    assemble .status = some [0x50000000#32] ∧ assemble .remain = some [0x60000000#32] ∧
    (∀ n, n < 2 ^ 28 → assemble (.start n) = some [0x10000000#32 ||| BitVec.ofNat 32 n]) ∧
    (∀ n, 2 ^ 28 ≤ n → assemble (.start n) = none) ∧
    (∀ v, v < 256 → assemble (.byte (.num v)) = some [0x20000000#32 ||| BitVec.ofNat 32 v]) ∧
    (∀ v, 256 ≤ v → assemble (.byte (.num v)) = none) ∧
    (∀ c : Char, c.toNat ≤ 127 →
      assemble (.byte (.quoted c)) = some [0x20000000#32 ||| BitVec.ofNat 32 c.toNat]) ∧
    (∀ c : Char, 127 < c.toNat → assemble (.byte (.quoted c)) = none) ∧
    (∀ k, k < 256 → assemble (.tread k) = some [0x40000000#32 ||| BitVec.ofNat 32 k]) ∧
    (∀ k, 256 ≤ k → assemble (.tread k) = none) ∧
    (∀ w : Word, assemble (.word w.toNat) = some [w]) ∧ ∀ w, 2 ^ 32 ≤ w → assemble (.word w) = none

/-- R78: `bytes` and `crc` over a text and over a list of operands, numbers and quoted characters mixed, expand to START n, one
BYTE each, FINISH; a character above 127 or an operand out of range is an assembly error. Three clauses go by the model's
choice of log 13: a `bytes` line over an empty list expands to nothing (the case `vs = []` of the fourth clause), and a `crc`
line whose length does not fit START is an assembly error (the last two). -/
def Obligations.PseudoInstructionsExpand : Prop :=
  (∀ s : List Char, (∀ c ∈ s, c.toNat ≤ 127) →
      assemble (.bytesText s) = some (s.map fun c => 0x20000000#32 ||| BitVec.ofNat 32 c.toNat)) ∧
    (∀ s : List Char, (∀ c ∈ s, c.toNat ≤ 127) → s.length < 2 ^ 28 →
      assemble (.crcText s) =
        some ((0x10000000#32 ||| BitVec.ofNat 32 s.length) ::
          ((s.map fun c => 0x20000000#32 ||| BitVec.ofNat 32 c.toNat) ++ [0x30000000#32]))) ∧
    (∀ s : List Char, (∃ c ∈ s, 127 < c.toNat) →
      assemble (.bytesText s) = none ∧ assemble (.crcText s) = none) ∧
    (∀ vs : List AsmOperand,
      (∀ v ∈ vs, (∃ n, v = .num n ∧ n < 256) ∨ ∃ c : Char, v = .quoted c ∧ c.toNat ≤ 127) →
      assemble (.bytesList vs) = some (vs.map fun v => 0x20000000#32 ||| BitVec.ofNat 32 v.number)) ∧
    (∀ vs : List AsmOperand,
      (∀ v ∈ vs, (∃ n, v = .num n ∧ n < 256) ∨ ∃ c : Char, v = .quoted c ∧ c.toNat ≤ 127) →
      vs.length < 2 ^ 28 →
      assemble (.crcList vs) =
        some ((0x10000000#32 ||| BitVec.ofNat 32 vs.length) ::
          ((vs.map fun v => 0x20000000#32 ||| BitVec.ofNat 32 v.number) ++ [0x30000000#32]))) ∧
    (∀ vs : List AsmOperand,
      (∃ v ∈ vs, (∃ n, v = .num n ∧ 256 ≤ n) ∨ ∃ c : Char, v = .quoted c ∧ 127 < c.toNat) →
      assemble (.bytesList vs) = none ∧ assemble (.crcList vs) = none) ∧
    (∀ n, (AsmOperand.num n).number = n) ∧ (∀ c : Char, (AsmOperand.quoted c).number = c.toNat) ∧
    assemble (.crcList []) = some [0x10000000#32, 0x30000000#32] ∧
    (∀ s : List Char, 2 ^ 28 ≤ s.length → assemble (.crcText s) = none) ∧
    ∀ vs : List AsmOperand, 2 ^ 28 ≤ vs.length → assemble (.crcList vs) = none

/-! ### The seven commands: result, completion and frame in one equation each -/

/-- R120: NOP completes in every state and writes nothing; its word is 0; a word with `OP` 0 and a non-zero `RSV28` is
ILLEGAL; NOP too is held while the queue is full. -/
def Obligations.NopWritesNothing : Prop :=
  (∀ s : State, exec .nop s = .next s) ∧ encode .nop = 0x00000000#32 ∧
    (∀ w : Word, opField w = 0#4 → low28 w ≠ 0#28 → ∃ e, decode w = .error e) ∧
    ∀ s : State, s.nextMove = .eng → s.resetDone = true → s.offered = some 0x00000000#32 →
      s.rspq.length = Config.rspDepth → step s = .next s.takeMove

/-- R121: START completes in every state, writes `ACC`, `LEN`, `CNT`, `SST`, `ERR` as said and nothing else. -/
def Obligations.StartOpensSession : Prop :=
  (∀ (len : Count) (s : State),
      exec (.start len) s =
        .next { s with acc := 0x00000000#32, len := len, cnt := 0#28, sst := .active, err := 0#4 }) ∧
    ∀ len : Count, encode (.start len) = 0x10000000#32 ||| len.setWidth 32

/-- R122: FINISH completes in every state: one record by the four cases, the session cleared, everything else as before; the
record has a slot wherever ENG accepts. -/
def Obligations.FinishReportsAndClears : Prop :=
  (∀ s : State, s.sst = .active → s.cnt = s.len →
      exec .finish s = .next (s.finishedWith ⟨.crc, s.acc⟩)) ∧
    (∀ s : State, s.sst = .active → s.cnt ≠ s.len →
      exec .finish s = .next (s.finishedWith ⟨.error, 0x00000004#32⟩)) ∧
    (∀ s : State, s.sst = .error →
      exec .finish s = .next (s.finishedWith ⟨.error, s.err.setWidth 32⟩)) ∧
    (∀ s : State, s.sst = .idle →
      exec .finish s = .next (s.finishedWith ⟨.error, 0x00000002#32⟩)) ∧
    (∀ s t : State, s.cmdReady false = true → exec .finish s = .next t →
      t.rspq.length ≤ Config.rspDepth) ∧
    encode .finish = 0x30000000#32

/-- R140 and R141: BYTE completes in IDLE (NO_SESSION), in ERROR (discarded), in ACTIVE with `CNT = LEN` (OVERRUN), and in
ACTIVE otherwise where the table entry is written (one update and, wherever `CNT + 1` fits 28 bits, `CNT + 1`; it fits below
`LEN`); nothing else changes. Holds for every value of `Config.cntPastRange`. -/
def Obligations.ByteAccumulatesOrRaises : Prop :=
  (∀ (b : Byte) (s : State), s.sst = .idle →
      exec (.byte b) s = .next { s with sst := .error, err := 2#4 }) ∧
    (∀ (b : Byte) (s : State), s.sst = .error → exec (.byte b) s = .next s) ∧
    (∀ (b : Byte) (s : State), s.sst = .active → s.cnt = s.len →
      exec (.byte b) s = .next { s with sst := .error, err := 3#4 }) ∧
    (∀ (b : Byte) (s : State) (v : Word), s.sst = .active → s.cnt ≠ s.len →
      s.tblRead (s.acc.extractLsb' 24 8 ^^^ b) = some v →
      ∃ c, exec (.byte b) s = .next { s with acc := (s.acc <<< 8) ^^^ v, cnt := c } ∧
        (s.cnt.toNat + 1 < 2 ^ 28 → c.toNat = s.cnt.toNat + 1)) ∧
    (∀ s : State, s.cnt.toNat < s.len.toNat → s.cnt.toNat + 1 < 2 ^ 28) ∧
    ∀ b : Byte, encode (.byte b) = 0x20000000#32 ||| b.setWidth 32

/-- R160: TREAD completes where the entry is written: one DATA record with the entry, nothing else changed. -/
def Obligations.TreadPushesTableEntry : Prop :=
  (∀ (i : Byte) (s : State) (v : Word), s.tblRead i = some v →
      exec (.tread i) s = .next { s with rspq := s.rspq ++ [⟨.data, v⟩] }) ∧
    ∀ i : Byte, encode (.tread i) = 0x40000000#32 ||| i.setWidth 32

/-- R161 and R33: STATUS completes in every state: one DATA record whose word has `SST`, `TRDY` and `ERR` in their fields and
0 in every reserved bit; nothing else changes. -/
def Obligations.StatusPushesStatusFields : Prop :=
  (∀ s : State, ∃ d : Word,
      exec .status s = .next { s with rspq := s.rspq ++ [⟨.data, d⟩] } ∧
        d = ((s.err.setWidth 32 : Word) <<< 4) ||| ((BitVec.ofBool s.trdy).setWidth 32 <<< 2)
            ||| s.sst.code.setWidth 32 ∧
        d.extractLsb' 0 2 = s.sst.code ∧ d.getLsbD 2 = s.trdy ∧ d.getLsbD 3 = false ∧
        d.extractLsb' 4 4 = s.err ∧ d.extractLsb' 8 24 = 0#24) ∧
    encode .status = 0x50000000#32

/-- R161's values: in a state that meets the invariant with the table ready, STATUS returns one of five words. -/
def Obligations.StatusWordIsOneOfFive : Prop :=
  ∀ s : State, s.Inv → s.trdy = true →
    ∃ d : Word, exec .status s = .next { s with rspq := s.rspq ++ [⟨.data, d⟩] } ∧
      (s.sst = .idle ∧ d = 0x00000004#32 ∨ s.sst = .active ∧ d = 0x00000005#32 ∨
        s.sst = .error ∧ (d = 0x00000016#32 ∨ d = 0x00000026#32 ∨ d = 0x00000036#32))

/-- R162: REMAIN completes in every state: one DATA record below 2^28, which holds the exact difference wherever `CNT <= LEN`
(R34 item 1); nothing else changes. In IDLE, where both are 0, it returns 0. -/
def Obligations.RemainPushesBytesExpected : Prop :=
  (∀ s : State, ∃ d : Word,
      exec .remain s = .next { s with rspq := s.rspq ++ [⟨.data, d⟩] } ∧ d.toNat < 2 ^ 28 ∧
        (s.cnt.toNat ≤ s.len.toNat → d.toNat = s.len.toNat - s.cnt.toNat)) ∧
    (∀ s : State, s.Inv → s.sst = .idle →
      exec .remain s = .next { s with rspq := s.rspq ++ [⟨.data, 0#32⟩] }) ∧
    encode .remain = 0x60000000#32

/-! ### Faults, errors and the session machine -/

/-- R104: a read of an unwritten entry is fault(TableUnwritten): TREAD in every session state, BYTE where it would
accumulate. -/
def Obligations.UnwrittenEntryReadFaults : Prop :=
  (∀ (i : Byte) (s : State), s.tblRead i = none → exec (.tread i) s = .fault (.tableUnwritten i)) ∧
    ∀ (b : Byte) (s : State), s.sst = .active → s.cnt ≠ s.len →
      s.tblRead (s.acc.extractLsb' 24 8 ^^^ b) = none →
      exec (.byte b) s = .fault (.tableUnwritten (s.acc.extractLsb' 24 8 ^^^ b))

/-- R204 and R208: the error entry writes `SST` and `ERR` and nothing else, the first error's code is kept, and the `err`
signal is 1 after it. R51: in every state the `err` signal is 1 exactly when `SST = ERROR`, and `tbl_ready` is `TRDY`. -/
def Obligations.ErrorEntryKeepsFirstCode : Prop :=
  (∀ (c : ErrCode) (s : State), s.sst ≠ .error →
      s.raiseErr c = { s with sst := .error, err := c.code }) ∧
    (∀ (c : ErrCode) (s : State), s.sst = .error → s.raiseErr c = s) ∧
    (∀ (c : ErrCode) (s : State), (s.raiseErr c).errSignal = true) ∧
    ∀ s : State, (s.errSignal = true ↔ s.sst = .error) ∧ s.tblReady = s.trdy

/-- R20 (who writes what), R103: no command writes the table, the generator or the host's side. -/
def Obligations.CommandsLeaveTableAndHost : Prop :=
  ∀ (i : Instr) (s t : State), exec i s = .next t →
    t.tbl = s.tbl ∧ t.gidx = s.gidx ∧ t.trdy = s.trdy ∧ t.program = s.program ∧ t.pos = s.pos ∧
      t.popped = s.popped ∧ t.schedule = s.schedule ∧ t.turn = s.turn ∧ t.resetDone = s.resetDone ∧
      (∀ k : Byte, t.tblRead k = s.tblRead k)

/-- R20, R63: FINISH, TREAD, STATUS and REMAIN push exactly one record at the tail; no other command touches the queue; and
the three queries change nothing else. -/
def Obligations.OnlyFinishAndQueriesPush : Prop :=
  ∀ (i : Instr) (s t : State), exec i s = .next t →
    ((i = .finish ∨ (∃ k, i = .tread k) ∨ i = .status ∨ i = .remain) → ∃ r, t.rspq = s.rspq ++ [r]) ∧
      ((i = .nop ∨ (∃ n, i = .start n) ∨ ∃ b, i = .byte b) → t.rspq = s.rspq) ∧
      (((∃ k, i = .tread k) ∨ i = .status ∨ i = .remain) → t = { s with rspq := t.rspq })

/-- R124: the session state after each command, cell by cell, with what START restarts, the update of a byte accumulated, and the
records FINISH pushes. -/
def Obligations.SessionLifecycleTable : Prop :=
  ∀ (i : Instr) (s t : State), exec i s = .next t →
    (∀ n, i = .start n → t.sst = .active ∧ t.len = n ∧ t.cnt = 0#28 ∧ t.acc = 0#32 ∧ t.err = 0#4) ∧
      (∀ b, i = .byte b → s.sst = .idle → t.sst = .error ∧ t.err = 2#4) ∧
      (∀ b, i = .byte b → s.sst = .active → s.cnt.toNat < s.len.toNat →
        t.sst = .active ∧ t.cnt.toNat = s.cnt.toNat + 1 ∧ t.len = s.len ∧
          ∃ v, s.tblRead (s.acc.extractLsb' 24 8 ^^^ b) = some v ∧ t.acc = (s.acc <<< 8) ^^^ v) ∧
      (∀ b, i = .byte b → s.sst = .active → s.cnt = s.len → t.sst = .error ∧ t.err = 3#4) ∧
      (∀ b, i = .byte b → s.sst = .error → t = s) ∧
      (i = .finish → t.sst = .idle ∧
        (s.sst = .idle → t.rspq = s.rspq ++ [⟨.error, 2#32⟩]) ∧
        (s.sst = .active → s.cnt = s.len → t.rspq = s.rspq ++ [⟨.crc, s.acc⟩]) ∧
        (s.sst = .active → s.cnt ≠ s.len → t.rspq = s.rspq ++ [⟨.error, 4#32⟩]) ∧
        (s.sst = .error → t.rspq = s.rspq ++ [⟨.error, s.err.setWidth 32⟩])) ∧
      ((i = .nop ∨ (∃ k, i = .tread k) ∨ i = .status ∨ i = .remain) → t.sst = s.sst)

/-- R205: an accepted FINISH, an accepted START and reset each leave ERROR, and nothing else does; FINISH reports the code and
START does not; STATUS reads the code and does not clear it. -/
def Obligations.OnlyFinishStartAndResetLeaveError : Prop :=
  (∀ (s : State) (w : Word), s.sst = .error → s.acceptedWord = some w → decode w = .ok .finish →
      ∃ t, step s = .next t ∧ t.sst = .idle ∧ t.err = 0#4 ∧
        t.rspq = s.rspq ++ [⟨.error, s.err.setWidth 32⟩]) ∧
    (∀ (s : State) (w : Word) (len : Count), s.sst = .error → s.acceptedWord = some w →
      decode w = .ok (.start len) →
      ∃ t, step s = .next t ∧ t.sst = .active ∧ t.len = len ∧ t.cnt = 0#28 ∧ t.err = 0#4 ∧
        t.rspq = s.rspq) ∧
    (∀ s : State, s.sst = .error → s.nextMove = .reset →
      ∃ t, step s = .next t ∧ t.sst = .idle ∧ t.err = 0#4) ∧
    (∀ s t : State, exec .status s = .next t → t.sst = s.sst ∧ t.err = s.err ∧
      ∃ d : Word, t.rspq = s.rspq ++ [⟨.data, d⟩] ∧ d.extractLsb' 4 4 = s.err) ∧
    ∀ s t : State, step s = .next t → s.sst = .error → t.sst ≠ .error →
      s.nextMove = .reset ∨
        ∃ w, s.acceptedWord = some w ∧ (decode w = .ok .finish ∨ ∃ len, decode w = .ok (.start len))

/-- R208: while ERROR is not left, no step changes the error code held. -/
def Obligations.ErrorCodeHeldWhileInError : Prop :=
  ∀ s t : State, step s = .next t → s.sst = .error → t.sst = .error →
    (∀ w, s.acceptedWord = some w → ∀ n, decode w ≠ .ok (.start n)) →
    t.err = s.err ∧ t.acc = s.acc ∧ t.len = s.len ∧ t.cnt = s.cnt

/-- R63: a query issued twice gives two equal records; NOP changes nothing; two STARTs with the same length leave the same
state as one. -/
def Obligations.QueriesAndStartAreIdempotent : Prop :=
  (∀ (i : Instr) (s t u : State), ((∃ k, i = .tread k) ∨ i = .status ∨ i = .remain) →
      exec i s = .next t → exec i t = .next u → ∃ r, u.rspq = s.rspq ++ [r, r]) ∧
    (∀ (len : Count) (s t : State), exec (.start len) s = .next t → exec (.start len) t = .next t) ∧
    ∀ s : State, exec .nop s = .next s

/-- R122, R143: a record with tag CRC is pushed only by FINISH in ACTIVE with `CNT = LEN`, and it holds `ACC`. -/
def Obligations.ChecksumOnlyForExactLength : Prop :=
  ∀ (i : Instr) (s t : State) (d : Word), exec i s = .next t → t.rspq = s.rspq ++ [⟨.crc, d⟩] →
    i = .finish ∧ s.sst = .active ∧ s.cnt = s.len ∧ d = s.acc

/-! ### The table and the checksum -/

/-- R101's corner cases and worked example, and R107's basis entries. -/
def Obligations.GenEntryKnownValues : Prop :=
  genEntry 0x00#8 = 0x00000000#32 ∧ genEntry 0x01#8 = 0x04C11DB7#32 ∧ genEntry 0x02#8 = 0x09823B6E#32 ∧
    genEntry 0x04#8 = 0x130476DC#32 ∧ genEntry 0x08#8 = 0x2608EDB8#32 ∧ genEntry 0x10#8 = 0x4C11DB70#32 ∧
    genEntry 0x20#8 = 0x9823B6E0#32 ∧ genEntry 0x40#8 = 0x34867077#32 ∧ genEntry 0x80#8 = 0x690CE0EE#32 ∧
    genEntry 0xFF#8 = 0xB1F740B4#32

/-- R107: `GenEntry` is linear over XOR, and the table is fixed by its eight basis entries. -/
def Obligations.GenEntryIsLinear : Prop :=
  (∀ i j : Byte, genEntry (i ^^^ j) = genEntry i ^^^ genEntry j) ∧ genEntry 0#8 = 0#32 ∧
    genEntry 0x01#8 = 0x04C11DB7#32 ∧ genEntry 0x02#8 = 0x09823B6E#32 ∧
    genEntry 0x04#8 = 0x130476DC#32 ∧ genEntry 0x08#8 = 0x2608EDB8#32 ∧ genEntry 0x10#8 = 0x4C11DB70#32 ∧
    genEntry 0x20#8 = 0x9823B6E0#32 ∧ genEntry 0x40#8 = 0x34867077#32 ∧ genEntry 0x80#8 = 0x690CE0EE#32

/-- R144: the bit-at-a-time form gives the same value for every buffer. -/
def Obligations.BitwiseChecksumEqualsTableDriven : Prop :=
  ∀ bs : List Byte, crc32Bitwise bs = crc32 bs

/-- R145 law 2: leading zero bytes are invisible, and a buffer of zero bytes has checksum 0. -/
def Obligations.LeadingZeroBytesInvisible : Prop :=
  ∀ (n : Nat) (bs : List Byte),
    crc32 (List.replicate n 0#8 ++ bs) = crc32 bs ∧ crc32 (List.replicate n 0#8) = 0#32

/-- R145 law 3: the checksum of one byte is its table entry. -/
def Obligations.SingleByteChecksumIsEntry : Prop :=
  ∀ b : Byte, crc32 [b] = genEntry b

/-- R145 law 4: the checksum is linear over XOR of buffers of equal length. -/
def Obligations.ChecksumIsLinear : Prop :=
  ∀ as bs : List Byte, as.length = bs.length →
    crc32 (List.zipWith (· ^^^ ·) as bs) = crc32 as ^^^ crc32 bs

/-- R145 law 5: the exact law of concatenation, and the inequality in one pair of the general case. -/
def Obligations.ChecksumOfConcatenation : Prop :=
  (∀ as bs : List Byte,
      crc32 (as ++ bs) = crc32 (as ++ List.replicate bs.length 0#8) ^^^ crc32 bs) ∧
    ∃ as bs : List Byte, crc32 (as ++ bs) ≠ crc32 as ^^^ crc32 bs

/-- R145 law 6: a buffer followed by its own checksum, most significant byte first, has checksum 0. -/
def Obligations.AppendedChecksumGivesZero : Prop :=
  ∀ bs : List Byte,
    crc32 (bs ++ [(crc32 bs).extractLsb' 24 8, (crc32 bs).extractLsb' 16 8, (crc32 bs).extractLsb' 8 8,
      (crc32 bs).extractLsb' 0 8]) = 0#32

/-- R146: inverting any one bit of any byte of any buffer changes the checksum. -/
def Obligations.SingleBitChangeChangesChecksum : Prop :=
  ∀ (bs : List Byte) (p : Nat) (hp : p < bs.length) (k : Nat), k < 8 →
    crc32 (bs.set p (bs[p] ^^^ (1#8 <<< k))) ≠ crc32 bs

/-! ### The agents -/

/-- R15 and the model's choice of log 1: the turn is the first settled one, or the free value; taking it changes nothing that
the spec names. Holds for every value of `Config.freeMove`. -/
def Obligations.TurnIsScheduledOrFree : Prop :=
  (∀ (s : State) (m : Move) (ms : List Move), s.schedule = m :: ms →
      s.nextMove = m ∧ s.takeMove = { s with schedule := ms }) ∧
    ∀ s : State, s.schedule = [] →
      s.nextMove = Config.freeMove s.turn ∧ s.takeMove = { s with turn := s.turn + 1 }

/-- R102: GEN's turn writes entry `GIDX`, moves `GIDX` up and sets `TRDY` on the last entry only; with `GIDX = 256` it has no
step. Nothing else changes. -/
def Obligations.GenStepWritesNextEntry : Prop :=
  (∀ s : State, s.nextMove = .gen → s.resetDone = true → s.gidx.toNat < 256 →
      ∃ t, step s = .next t ∧ t.tblRead (s.gidx.setWidth 8) = some (genEntry (s.gidx.setWidth 8)) ∧
        (∀ i : Byte, i.toNat ≠ s.gidx.toNat → t.tblRead i = s.tblRead i) ∧
        t.gidx.toNat = s.gidx.toNat + 1 ∧
        (t.trdy = if s.gidx.toNat = 255 then true else s.trdy) ∧
        t = { s.takeMove with tbl := t.tbl, gidx := t.gidx, trdy := t.trdy }) ∧
    ∀ s : State, s.nextMove = .gen → s.resetDone = true → 256 ≤ s.gidx.toNat → step s = .next s.takeMove

/-- R102, R105, R242, R245: from any state that meets the invariant, as many turns of GEN as entries are missing (256 after a
reset) fill the table with `GenEntry`, set `TRDY` and change nothing else; the command port then opens if the queue has room. -/
def Obligations.BuildCompletesInRemainingSteps : Prop :=
  ∀ (s : State) (rest : List Move), s.Inv → s.resetDone = true →
    s.schedule = List.replicate (256 - s.gidx.toNat) .gen ++ rest →
    ∃ t, runSteps (256 - s.gidx.toNat) s = .next t ∧ t.TableBuilt ∧ t.trdy = true ∧ t.gidx = 256#9 ∧
      t = { s with tbl := t.tbl, gidx := t.gidx, trdy := t.trdy, schedule := rest } ∧
      (s.rspq.length < Config.rspDepth → t.cmdReady false = true)

/-- R26, R103: a step changes the table only as GEN's turn below `GIDX = 256`, or as reset; GEN's turn changes no entry but
entry `GIDX`, which under the invariant was unwritten, and moves `GIDX` past it; no command changes the table. -/
def Obligations.TableWrittenOnlyByGenAndReset : Prop :=
  ∀ s t : State, step s = .next t → t.tbl ≠ s.tbl →
    (s.nextMove = .gen ∧ s.gidx.toNat < 256 ∧ t.gidx.toNat = s.gidx.toNat + 1 ∧
        (∀ i : Byte, i.toNat ≠ s.gidx.toNat → t.tblRead i = s.tblRead i) ∧
        (s.Inv → ∀ i : Byte, i.toNat = s.gidx.toNat → s.tblRead i = none)) ∨
      (s.nextMove = .reset ∧ t.tbl = [])

/-- R52, R53, R79, R31: when ENG's turn comes, a word is offered and the port is ready, the step is `exec` of the decoded
command on the state with the turn used up and the host's position one further. -/
def Obligations.StepRunsDecodedCommand : Prop :=
  ∀ (s : State) (w : Word) (i : Instr), s.nextMove = .eng → s.resetDone = true → s.offered = some w →
    s.cmdReady false = true → decode w = .ok i →
    step s = exec i { s.takeMove with pos := s.pos + 1 }

/-- R79, R201: an accepted illegal word raises ILLEGAL_CMD, advances the host's position, and does nothing else. -/
def Obligations.AcceptedIllegalWordRaises : Prop :=
  ∀ (s : State) (w : Word) (e : Illegal), s.nextMove = .eng → s.resetDone = true → s.offered = some w →
    s.cmdReady false = true → decode w = .error e →
    (s.sst ≠ .error →
        step s = .next { s.takeMove with pos := s.pos + 1, sst := .error, err := 1#4 }) ∧
      (s.sst = .error → step s = .next { s.takeMove with pos := s.pos + 1 })

/-- R53, R245, R246: `cmd_ready` is exactly the three conditions, whatever word is offered; where it is 0, or no word is
offered, ENG holds: nothing changes and the host's position stays. -/
def Obligations.EngHoldsUnlessReady : Prop :=
  (∀ (s : State) (rst : Bool),
      s.cmdReady rst = true ↔ s.trdy = true ∧ s.rspq.length < Config.rspDepth ∧ rst = false) ∧
    ∀ s : State, s.nextMove = .eng → s.resetDone = true →
      (s.trdy = false ∨ Config.rspDepth ≤ s.rspq.length ∨ s.program.length ≤ s.pos) →
      step s = .next s.takeMove

/-- R54: a pop takes the head record, the records stay in order, and with an empty queue nothing changes; a push and a pop
give the same queue in either order. -/
def Obligations.PopTakesHeadRecord : Prop :=
  (∀ (s : State) (r : Record) (rs : List Record), s.nextMove = .pop → s.resetDone = true →
      s.rspq = r :: rs →
      step s = .next { s.takeMove with rspq := rs, popped := s.popped ++ [r] }) ∧
    (∀ s : State, s.nextMove = .pop → s.resetDone = true → s.rspq = [] → step s = .next s.takeMove) ∧
    (∀ (s : State), s.rspValid = true ↔ s.rspq ≠ []) ∧
    (∀ (s : State) (r : Record) (rs : List Record), s.rspq = r :: rs →
      s.rspTag = some r.tag.code ∧ s.rspData = some r.data) ∧
    ∀ (s : State) (tag : Tag) (d : Word), s.rspq ≠ [] → (s.push tag d).popHead = s.popHead.push tag d

/-- R36, R240: a rising edge with `rst = 1` writes every element to its reset value, whatever the state; `State.reset` holds
the same values. -/
def Obligations.ResetWritesEveryElement : Prop :=
  (∀ s : State, s.nextMove = .reset →
      ∃ t, step s = .next t ∧ t.acc = 0x00000000#32 ∧ t.len = 0#28 ∧ t.cnt = 0#28 ∧ t.sst = .idle ∧
        t.err = 0#4 ∧ (∀ i : Byte, t.tblRead i = none) ∧ t.gidx = 0#9 ∧ t.trdy = false ∧ t.rspq = []) ∧
    State.reset.acc = 0x00000000#32 ∧ State.reset.len = 0#28 ∧ State.reset.cnt = 0#28 ∧
    State.reset.sst = .idle ∧ State.reset.err = 0#4 ∧ (∀ i : Byte, State.reset.tblRead i = none) ∧
    State.reset.gidx = 0#9 ∧ State.reset.trdy = false ∧ State.reset.rspq = []

/-- R241, and the model's choice of log 5 for the turns of GEN and HOST: before the first reset, a turn other than reset is
refused by name; a reset has its effect. -/
def Obligations.NoMeaningBeforeFirstReset : Prop :=
  (∀ s : State, s.resetDone = false → s.nextMove ≠ .reset → step s = .refused .beforeFirstReset) ∧
    ∀ s : State, s.resetDone = false → s.nextMove = .reset → ∃ t, step s = .next t ∧ t.resetDone = true

/-- R31: the host's position advances by exactly 1 when ENG accepts a command, and on no other step; that a reset leaves it is
the model's choice (log 9). The host's list never changes. -/
def Obligations.PositionAdvancesOnAcceptOnly : Prop :=
  ∀ s t : State, step s = .next t →
    (s.acceptedWord ≠ none → t.pos = s.pos + 1) ∧ (s.acceptedWord = none → t.pos = s.pos) ∧
      t.program = s.program

/-- R66, R29, R54: over one step the records popped so far followed by the queue change only by one record at the end, or,
at reset, by the loss of the queue: records leave in the order they were pushed. -/
def Obligations.RecordsLeaveInPushOrder : Prop :=
  ∀ s t : State, step s = .next t → s.nextMove ≠ .reset →
    t.popped ++ t.rspq = s.popped ++ s.rspq ∨
      (s.acceptedWord ≠ none ∧ t.popped = s.popped ∧ ∃ r, t.rspq = s.rspq ++ [r])

/-! ### The whole machine -/

/-- R34: the state after reset meets the invariant. -/
def Obligations.ResetMeetsTheInvariant : Prop := State.reset.Inv ∧ State.reset.TracksBytes []

/-- R34: every step of any agent, from any state that meets the invariant, keeps it. -/
def Obligations.EveryStepKeepsTheInvariant : Prop :=
  ∀ s t : State, s.Inv → step s = .next t → t.Inv

/-- R34 item 7: `ACC` is the checksum of exactly the bytes accepted since the last START, through every step. -/
def Obligations.AccumulatorIsChecksumOfAcceptedBytes : Prop :=
  ∀ (s t : State) (bs : List Byte), s.Inv → s.TracksBytes bs → step s = .next t →
    t.TracksBytes (s.bytesAfterStep bs)

/-- R104, R251: from a state that meets the invariant no step faults. -/
def Obligations.NoStepFaultsUnderTheInvariant : Prop :=
  ∀ s : State, s.Inv → s.StepSafe

/-- From R143, for the schedules in which ENG takes every turn (`EndedSessionRunReturnsChecksum` speaks of every order of turns):
from any state that meets the invariant with the port ready, a host that offers START n, the n bytes and FINISH gets exactly one more record, the checksum of the bytes; the block ends in IDLE with the datapath
cleared and the rest as it was: any n in range, any bytes, any session state before. A FINISH reached with `CNT` not `LEN`, or
with an error, pushes a record with tag 2 and no checksum. -/
def Obligations.WellFormedSessionReturnsChecksum : Prop :=
  (∀ (s : State) (bs : List Byte) (rest : List Word) (turns : List Move),
    s.Inv → s.resetDone = true → s.cmdReady false = true → bs.length < 2 ^ 28 →
    s.program.drop s.pos = (sessionCommands bs).map encode ++ rest →
    s.schedule = List.replicate (bs.length + 2) .eng ++ turns →
    runSteps (bs.length + 2) s =
      .next
        { s with
          acc := 0#32, len := 0#28, cnt := 0#28, sst := .idle, err := 0#4
          rspq := s.rspq ++ [⟨.crc, crc32 bs⟩]
          pos := s.pos + (bs.length + 2), schedule := turns }) ∧
    ∀ s : State, (s.sst = .active ∧ s.cnt ≠ s.len) ∨ s.sst = .error →
      ∃ t d, exec .finish s = .next t ∧ t.rspq = s.rspq ++ [⟨.error, d⟩]

/-! ### Runs (spec/70_reset_and_hazards.md R249 to R251), under every order of the agents' turns -/

/-- R249, R250: with no reset after the start and weak fairness of GEN and ENG, a run whose host pops every record reaches its
end; weak fairness of HOST is the same as a host that pops every record; and a run that hangs has a record that the host
never pops. That HOST's own step is the pop alone, and that a host that pops every record is one with a pop then or later
whenever the queue holds a record, is the model's choice (log 18), on which the second clause rests. -/
def Obligations.EveryFairRunEnds : Prop :=
  ∀ (program : List Word) (turns : Nat → Move), NoResetAfterStart turns →
    (WeaklyFair program turns .gen → WeaklyFair program turns .eng → HostPopsEveryRecord program turns →
        ∃ records final, RunGives program turns (.ended records final)) ∧
      (WeaklyFair program turns .pop ↔ HostPopsEveryRecord program turns) ∧
      (WeaklyFair program turns .gen → WeaklyFair program turns .eng → RunGives program turns .hang →
        ∃ n s, runAfter program turns n = .next s ∧ s.rspq ≠ [] ∧ ∀ k, n ≤ k → turns k ≠ .pop)

/-- R251: a run with no reset after the start has exactly one result, an end or a hang: from the reset state no run faults, and
none is refused. -/
def Obligations.EveryRunEndsOrHangs : Prop :=
  ∀ (program : List Word) (turns : Nat → Move), NoResetAfterStart turns →
    ∃ o, RunGives program turns o ∧ (∀ o', RunGives program turns o' → o' = o) ∧
      (o = .hang ∨ ∃ records final, o = .ended records final)

/-- R246 and R55, from any state after a first reset: a host that does not pop while the queue is full waits for the port for
ever, and one that offers nothing while the queue is empty waits for a record for ever. That a host that offers nothing is a
sequence with no turn of ENG is the model's choice (log 18), on which the second clause rests. -/
def Obligations.WaitingHostHangs : Prop :=
  (∀ (s : State) (turns : Nat → Move), s.resetDone = true → Config.rspDepth ≤ s.rspq.length →
      (∀ n, turns n = .gen ∨ turns n = .eng) →
      ∀ n, ∃ t, runFrom s turns n = .next t ∧ t.cmdReady false = false ∧ t.pos = s.pos ∧ t.rspq = s.rspq ∧
        t.popped = s.popped ∧ ¬t.RunEnded) ∧
    ∀ (s : State) (turns : Nat → Move), s.resetDone = true → s.rspq = [] →
      (∀ n, turns n = .gen ∨ turns n = .pop) →
      ∀ n, ∃ t, runFrom s turns n = .next t ∧ t.rspValid = false ∧ t.pos = s.pos ∧ t.popped = s.popped ∧
        (s.pos < s.program.length → ¬t.RunEnded)

/-- R251: the hold of ENG ends only by GEN's last step or a pop: a turn of ENG leaves a held state held, with nothing changed; a
step that ends the hold is GEN's last step or the pop of a full queue's head; and each of the two ends it, where the other
thing that `cmd_ready` needs is there. -/
def Obligations.HoldIsLiftedByGenOrPop : Prop :=
  (∀ s : State, s.engHolds = true → s.resetDone = true → s.nextMove = .eng → step s = .next s.takeMove) ∧
    (∀ s t : State, step s = .next t → s.engHolds = true → t.engHolds = false →
      (s.nextMove = .gen ∧ s.trdy = false ∧ s.gidx.toNat = 255 ∧ t.trdy = true) ∨
        (s.nextMove = .pop ∧ Config.rspDepth ≤ s.rspq.length ∧ t.rspq.length + 1 = s.rspq.length)) ∧
    (∀ s : State, s.engHolds = true → s.resetDone = true → s.nextMove = .gen → s.gidx.toNat = 255 →
      s.rspq.length < Config.rspDepth → ∃ t, step s = .next t ∧ t.engHolds = false) ∧
    ∀ s : State, s.engHolds = true → s.resetDone = true → s.nextMove = .pop → s.trdy = true →
      s.rspq.length = Config.rspDepth → ∃ t, step s = .next t ∧ t.engHolds = false

/-- R66, R15 and R250: two runs of one command list that reach their ends have the same observation, whatever the order of the
agents' turns in each. -/
def Obligations.EndedRunsOfOneProgramAgree : Prop :=
  ∀ (program : List Word) (turns turns' : Nat → Move) (records records' : List Record) (final final' : State),
    NoResetAfterStart turns → NoResetAfterStart turns' →
    RunGives program turns (.ended records final) → RunGives program turns' (.ended records' final') →
    records = records' ∧ final = final'

/-- R143, R250, under every order of the agents' turns: every run of START n, the n bytes and FINISH that reaches its end has
exactly one record, the checksum of the bytes, and ends in IDLE with the datapath cleared. -/
def Obligations.EndedSessionRunReturnsChecksum : Prop :=
  ∀ (bs : List Byte) (turns : Nat → Move) (records : List Record) (final : State), bs.length < 2 ^ 28 →
    NoResetAfterStart turns →
    RunGives ((sessionCommands bs).map encode) turns (.ended records final) →
    records = [⟨.crc, crc32 bs⟩] ∧ final.sst = .idle ∧ final.acc = 0#32 ∧ final.len = 0#28 ∧
      final.cnt = 0#28 ∧ final.err = 0#4
end

