-- ==== Sys2Proof/Laws/State.lean ====
section
/-! SUPPORT. One lemma per field per update of the state, so that no later proof unfolds a record update. -/

namespace Sys2Proof.Machine

/-! ### `State.push` -/

@[simp] theorem State.push_acc (s : State) (tag : Tag) (data : Word) :
    (s.push tag data).acc = s.acc := rfl
@[simp] theorem State.push_len (s : State) (tag : Tag) (data : Word) :
    (s.push tag data).len = s.len := rfl
@[simp] theorem State.push_cnt (s : State) (tag : Tag) (data : Word) :
    (s.push tag data).cnt = s.cnt := rfl
@[simp] theorem State.push_sst (s : State) (tag : Tag) (data : Word) :
    (s.push tag data).sst = s.sst := rfl
@[simp] theorem State.push_err (s : State) (tag : Tag) (data : Word) :
    (s.push tag data).err = s.err := rfl
@[simp] theorem State.push_tbl (s : State) (tag : Tag) (data : Word) :
    (s.push tag data).tbl = s.tbl := rfl
@[simp] theorem State.push_gidx (s : State) (tag : Tag) (data : Word) :
    (s.push tag data).gidx = s.gidx := rfl
@[simp] theorem State.push_trdy (s : State) (tag : Tag) (data : Word) :
    (s.push tag data).trdy = s.trdy := rfl
@[simp] theorem State.push_rspq (s : State) (tag : Tag) (data : Word) :
    (s.push tag data).rspq = s.rspq ++ [⟨tag, data⟩] := rfl
@[simp] theorem State.push_program (s : State) (tag : Tag) (data : Word) :
    (s.push tag data).program = s.program := rfl
@[simp] theorem State.push_pos (s : State) (tag : Tag) (data : Word) :
    (s.push tag data).pos = s.pos := rfl
@[simp] theorem State.push_popped (s : State) (tag : Tag) (data : Word) :
    (s.push tag data).popped = s.popped := rfl
@[simp] theorem State.push_schedule (s : State) (tag : Tag) (data : Word) :
    (s.push tag data).schedule = s.schedule := rfl
@[simp] theorem State.push_turn (s : State) (tag : Tag) (data : Word) :
    (s.push tag data).turn = s.turn := rfl
@[simp] theorem State.push_resetDone (s : State) (tag : Tag) (data : Word) :
    (s.push tag data).resetDone = s.resetDone := rfl

/-! ### `State.openSession` -/

@[simp] theorem State.openSession_acc (s : State) (len : Count) :
    (s.openSession len).acc = Config.init := rfl
@[simp] theorem State.openSession_len (s : State) (len : Count) :
    (s.openSession len).len = len := rfl
@[simp] theorem State.openSession_cnt (s : State) (len : Count) :
    (s.openSession len).cnt = 0#28 := rfl
@[simp] theorem State.openSession_sst (s : State) (len : Count) :
    (s.openSession len).sst = .active := rfl
@[simp] theorem State.openSession_err (s : State) (len : Count) :
    (s.openSession len).err = 0#4 := rfl
@[simp] theorem State.openSession_tbl (s : State) (len : Count) :
    (s.openSession len).tbl = s.tbl := rfl
@[simp] theorem State.openSession_gidx (s : State) (len : Count) :
    (s.openSession len).gidx = s.gidx := rfl
@[simp] theorem State.openSession_trdy (s : State) (len : Count) :
    (s.openSession len).trdy = s.trdy := rfl
@[simp] theorem State.openSession_rspq (s : State) (len : Count) :
    (s.openSession len).rspq = s.rspq := rfl
@[simp] theorem State.openSession_program (s : State) (len : Count) :
    (s.openSession len).program = s.program := rfl
@[simp] theorem State.openSession_pos (s : State) (len : Count) :
    (s.openSession len).pos = s.pos := rfl
@[simp] theorem State.openSession_popped (s : State) (len : Count) :
    (s.openSession len).popped = s.popped := rfl
@[simp] theorem State.openSession_schedule (s : State) (len : Count) :
    (s.openSession len).schedule = s.schedule := rfl
@[simp] theorem State.openSession_turn (s : State) (len : Count) :
    (s.openSession len).turn = s.turn := rfl
@[simp] theorem State.openSession_resetDone (s : State) (len : Count) :
    (s.openSession len).resetDone = s.resetDone := rfl

/-! ### `State.clearSession` -/

@[simp] theorem State.clearSession_acc (s : State) :
    (s.clearSession).acc = 0#32 := rfl
@[simp] theorem State.clearSession_len (s : State) :
    (s.clearSession).len = 0#28 := rfl
@[simp] theorem State.clearSession_cnt (s : State) :
    (s.clearSession).cnt = 0#28 := rfl
@[simp] theorem State.clearSession_sst (s : State) :
    (s.clearSession).sst = .idle := rfl
@[simp] theorem State.clearSession_err (s : State) :
    (s.clearSession).err = 0#4 := rfl
@[simp] theorem State.clearSession_tbl (s : State) :
    (s.clearSession).tbl = s.tbl := rfl
@[simp] theorem State.clearSession_gidx (s : State) :
    (s.clearSession).gidx = s.gidx := rfl
@[simp] theorem State.clearSession_trdy (s : State) :
    (s.clearSession).trdy = s.trdy := rfl
@[simp] theorem State.clearSession_rspq (s : State) :
    (s.clearSession).rspq = s.rspq := rfl
@[simp] theorem State.clearSession_program (s : State) :
    (s.clearSession).program = s.program := rfl
@[simp] theorem State.clearSession_pos (s : State) :
    (s.clearSession).pos = s.pos := rfl
@[simp] theorem State.clearSession_popped (s : State) :
    (s.clearSession).popped = s.popped := rfl
@[simp] theorem State.clearSession_schedule (s : State) :
    (s.clearSession).schedule = s.schedule := rfl
@[simp] theorem State.clearSession_turn (s : State) :
    (s.clearSession).turn = s.turn := rfl
@[simp] theorem State.clearSession_resetDone (s : State) :
    (s.clearSession).resetDone = s.resetDone := rfl

/-! ### `State.accumulate` -/

@[simp] theorem State.accumulate_acc (s : State) (acc : Word) :
    (s.accumulate acc).acc = acc := rfl
@[simp] theorem State.accumulate_len (s : State) (acc : Word) :
    (s.accumulate acc).len = s.len := rfl
@[simp] theorem State.accumulate_cnt (s : State) (acc : Word) :
    (s.accumulate acc).cnt = cntPlusOne s.cnt s.len := rfl
@[simp] theorem State.accumulate_sst (s : State) (acc : Word) :
    (s.accumulate acc).sst = s.sst := rfl
@[simp] theorem State.accumulate_err (s : State) (acc : Word) :
    (s.accumulate acc).err = s.err := rfl
@[simp] theorem State.accumulate_tbl (s : State) (acc : Word) :
    (s.accumulate acc).tbl = s.tbl := rfl
@[simp] theorem State.accumulate_gidx (s : State) (acc : Word) :
    (s.accumulate acc).gidx = s.gidx := rfl
@[simp] theorem State.accumulate_trdy (s : State) (acc : Word) :
    (s.accumulate acc).trdy = s.trdy := rfl
@[simp] theorem State.accumulate_rspq (s : State) (acc : Word) :
    (s.accumulate acc).rspq = s.rspq := rfl
@[simp] theorem State.accumulate_program (s : State) (acc : Word) :
    (s.accumulate acc).program = s.program := rfl
@[simp] theorem State.accumulate_pos (s : State) (acc : Word) :
    (s.accumulate acc).pos = s.pos := rfl
@[simp] theorem State.accumulate_popped (s : State) (acc : Word) :
    (s.accumulate acc).popped = s.popped := rfl
@[simp] theorem State.accumulate_schedule (s : State) (acc : Word) :
    (s.accumulate acc).schedule = s.schedule := rfl
@[simp] theorem State.accumulate_turn (s : State) (acc : Word) :
    (s.accumulate acc).turn = s.turn := rfl
@[simp] theorem State.accumulate_resetDone (s : State) (acc : Word) :
    (s.accumulate acc).resetDone = s.resetDone := rfl

/-! ### `State.resetBlock` -/

@[simp] theorem State.resetBlock_acc (s : State) :
    (s.resetBlock).acc = 0#32 := rfl
@[simp] theorem State.resetBlock_len (s : State) :
    (s.resetBlock).len = 0#28 := rfl
@[simp] theorem State.resetBlock_cnt (s : State) :
    (s.resetBlock).cnt = 0#28 := rfl
@[simp] theorem State.resetBlock_sst (s : State) :
    (s.resetBlock).sst = .idle := rfl
@[simp] theorem State.resetBlock_err (s : State) :
    (s.resetBlock).err = 0#4 := rfl
@[simp] theorem State.resetBlock_tbl (s : State) :
    (s.resetBlock).tbl = [] := rfl
@[simp] theorem State.resetBlock_gidx (s : State) :
    (s.resetBlock).gidx = 0#9 := rfl
@[simp] theorem State.resetBlock_trdy (s : State) :
    (s.resetBlock).trdy = false := rfl
@[simp] theorem State.resetBlock_rspq (s : State) :
    (s.resetBlock).rspq = [] := rfl
@[simp] theorem State.resetBlock_program (s : State) :
    (s.resetBlock).program = s.program := rfl
@[simp] theorem State.resetBlock_pos (s : State) :
    (s.resetBlock).pos = s.pos := rfl
@[simp] theorem State.resetBlock_popped (s : State) :
    (s.resetBlock).popped = s.popped := rfl
@[simp] theorem State.resetBlock_schedule (s : State) :
    (s.resetBlock).schedule = s.schedule := rfl
@[simp] theorem State.resetBlock_turn (s : State) :
    (s.resetBlock).turn = s.turn := rfl
@[simp] theorem State.resetBlock_resetDone (s : State) :
    (s.resetBlock).resetDone = true := rfl

/-! ### `State.advancePos` -/

@[simp] theorem State.advancePos_acc (s : State) :
    (s.advancePos).acc = s.acc := rfl
@[simp] theorem State.advancePos_len (s : State) :
    (s.advancePos).len = s.len := rfl
@[simp] theorem State.advancePos_cnt (s : State) :
    (s.advancePos).cnt = s.cnt := rfl
@[simp] theorem State.advancePos_sst (s : State) :
    (s.advancePos).sst = s.sst := rfl
@[simp] theorem State.advancePos_err (s : State) :
    (s.advancePos).err = s.err := rfl
@[simp] theorem State.advancePos_tbl (s : State) :
    (s.advancePos).tbl = s.tbl := rfl
@[simp] theorem State.advancePos_gidx (s : State) :
    (s.advancePos).gidx = s.gidx := rfl
@[simp] theorem State.advancePos_trdy (s : State) :
    (s.advancePos).trdy = s.trdy := rfl
@[simp] theorem State.advancePos_rspq (s : State) :
    (s.advancePos).rspq = s.rspq := rfl
@[simp] theorem State.advancePos_program (s : State) :
    (s.advancePos).program = s.program := rfl
@[simp] theorem State.advancePos_pos (s : State) :
    (s.advancePos).pos = s.pos + 1 := rfl
@[simp] theorem State.advancePos_popped (s : State) :
    (s.advancePos).popped = s.popped := rfl
@[simp] theorem State.advancePos_schedule (s : State) :
    (s.advancePos).schedule = s.schedule := rfl
@[simp] theorem State.advancePos_turn (s : State) :
    (s.advancePos).turn = s.turn := rfl
@[simp] theorem State.advancePos_resetDone (s : State) :
    (s.advancePos).resetDone = s.resetDone := rfl

/-! ### `State.genWrite` -/

@[simp] theorem State.genWrite_acc (s : State) :
    (s.genWrite).acc = s.acc := rfl
@[simp] theorem State.genWrite_len (s : State) :
    (s.genWrite).len = s.len := rfl
@[simp] theorem State.genWrite_cnt (s : State) :
    (s.genWrite).cnt = s.cnt := rfl
@[simp] theorem State.genWrite_sst (s : State) :
    (s.genWrite).sst = s.sst := rfl
@[simp] theorem State.genWrite_err (s : State) :
    (s.genWrite).err = s.err := rfl
@[simp] theorem State.genWrite_tbl (s : State) :
    (s.genWrite).tbl = Table.write s.tbl s.gidx.toNat (genEntry (s.gidx.extractLsb' 0 8)) := rfl
@[simp] theorem State.genWrite_gidx (s : State) :
    (s.genWrite).gidx = s.gidx + 1#9 := rfl
@[simp] theorem State.genWrite_trdy (s : State) :
    (s.genWrite).trdy = (if s.gidx + 1#9 = 256#9 then true else s.trdy) := rfl
@[simp] theorem State.genWrite_rspq (s : State) :
    (s.genWrite).rspq = s.rspq := rfl
@[simp] theorem State.genWrite_program (s : State) :
    (s.genWrite).program = s.program := rfl
@[simp] theorem State.genWrite_pos (s : State) :
    (s.genWrite).pos = s.pos := rfl
@[simp] theorem State.genWrite_popped (s : State) :
    (s.genWrite).popped = s.popped := rfl
@[simp] theorem State.genWrite_schedule (s : State) :
    (s.genWrite).schedule = s.schedule := rfl
@[simp] theorem State.genWrite_turn (s : State) :
    (s.genWrite).turn = s.turn := rfl
@[simp] theorem State.genWrite_resetDone (s : State) :
    (s.genWrite).resetDone = s.resetDone := rfl

/-! ### `State.raiseErr`: the fields it leaves -/

@[simp] theorem State.raiseErr_acc (s : State) (c : ErrCode) :
    (s.raiseErr c).acc = s.acc := by
  unfold State.raiseErr; split <;> rfl
@[simp] theorem State.raiseErr_len (s : State) (c : ErrCode) :
    (s.raiseErr c).len = s.len := by
  unfold State.raiseErr; split <;> rfl
@[simp] theorem State.raiseErr_cnt (s : State) (c : ErrCode) :
    (s.raiseErr c).cnt = s.cnt := by
  unfold State.raiseErr; split <;> rfl
@[simp] theorem State.raiseErr_tbl (s : State) (c : ErrCode) :
    (s.raiseErr c).tbl = s.tbl := by
  unfold State.raiseErr; split <;> rfl
@[simp] theorem State.raiseErr_gidx (s : State) (c : ErrCode) :
    (s.raiseErr c).gidx = s.gidx := by
  unfold State.raiseErr; split <;> rfl
@[simp] theorem State.raiseErr_trdy (s : State) (c : ErrCode) :
    (s.raiseErr c).trdy = s.trdy := by
  unfold State.raiseErr; split <;> rfl
@[simp] theorem State.raiseErr_rspq (s : State) (c : ErrCode) :
    (s.raiseErr c).rspq = s.rspq := by
  unfold State.raiseErr; split <;> rfl
@[simp] theorem State.raiseErr_program (s : State) (c : ErrCode) :
    (s.raiseErr c).program = s.program := by
  unfold State.raiseErr; split <;> rfl
@[simp] theorem State.raiseErr_pos (s : State) (c : ErrCode) :
    (s.raiseErr c).pos = s.pos := by
  unfold State.raiseErr; split <;> rfl
@[simp] theorem State.raiseErr_popped (s : State) (c : ErrCode) :
    (s.raiseErr c).popped = s.popped := by
  unfold State.raiseErr; split <;> rfl
@[simp] theorem State.raiseErr_schedule (s : State) (c : ErrCode) :
    (s.raiseErr c).schedule = s.schedule := by
  unfold State.raiseErr; split <;> rfl
@[simp] theorem State.raiseErr_turn (s : State) (c : ErrCode) :
    (s.raiseErr c).turn = s.turn := by
  unfold State.raiseErr; split <;> rfl
@[simp] theorem State.raiseErr_resetDone (s : State) (c : ErrCode) :
    (s.raiseErr c).resetDone = s.resetDone := by
  unfold State.raiseErr; split <;> rfl

/-! ### `State.takeMove`: the fields it leaves -/

@[simp] theorem State.takeMove_acc (s : State) :
    (s.takeMove).acc = s.acc := by
  unfold State.takeMove; split <;> rfl
@[simp] theorem State.takeMove_len (s : State) :
    (s.takeMove).len = s.len := by
  unfold State.takeMove; split <;> rfl
@[simp] theorem State.takeMove_cnt (s : State) :
    (s.takeMove).cnt = s.cnt := by
  unfold State.takeMove; split <;> rfl
@[simp] theorem State.takeMove_sst (s : State) :
    (s.takeMove).sst = s.sst := by
  unfold State.takeMove; split <;> rfl
@[simp] theorem State.takeMove_err (s : State) :
    (s.takeMove).err = s.err := by
  unfold State.takeMove; split <;> rfl
@[simp] theorem State.takeMove_tbl (s : State) :
    (s.takeMove).tbl = s.tbl := by
  unfold State.takeMove; split <;> rfl
@[simp] theorem State.takeMove_gidx (s : State) :
    (s.takeMove).gidx = s.gidx := by
  unfold State.takeMove; split <;> rfl
@[simp] theorem State.takeMove_trdy (s : State) :
    (s.takeMove).trdy = s.trdy := by
  unfold State.takeMove; split <;> rfl
@[simp] theorem State.takeMove_rspq (s : State) :
    (s.takeMove).rspq = s.rspq := by
  unfold State.takeMove; split <;> rfl
@[simp] theorem State.takeMove_program (s : State) :
    (s.takeMove).program = s.program := by
  unfold State.takeMove; split <;> rfl
@[simp] theorem State.takeMove_pos (s : State) :
    (s.takeMove).pos = s.pos := by
  unfold State.takeMove; split <;> rfl
@[simp] theorem State.takeMove_popped (s : State) :
    (s.takeMove).popped = s.popped := by
  unfold State.takeMove; split <;> rfl
@[simp] theorem State.takeMove_resetDone (s : State) :
    (s.takeMove).resetDone = s.resetDone := by
  unfold State.takeMove; split <;> rfl

/-! ### `State.popHead`: the fields it leaves -/

@[simp] theorem State.popHead_acc (s : State) :
    (s.popHead).acc = s.acc := by
  unfold State.popHead; split <;> rfl
@[simp] theorem State.popHead_len (s : State) :
    (s.popHead).len = s.len := by
  unfold State.popHead; split <;> rfl
@[simp] theorem State.popHead_cnt (s : State) :
    (s.popHead).cnt = s.cnt := by
  unfold State.popHead; split <;> rfl
@[simp] theorem State.popHead_sst (s : State) :
    (s.popHead).sst = s.sst := by
  unfold State.popHead; split <;> rfl
@[simp] theorem State.popHead_err (s : State) :
    (s.popHead).err = s.err := by
  unfold State.popHead; split <;> rfl
@[simp] theorem State.popHead_tbl (s : State) :
    (s.popHead).tbl = s.tbl := by
  unfold State.popHead; split <;> rfl
@[simp] theorem State.popHead_gidx (s : State) :
    (s.popHead).gidx = s.gidx := by
  unfold State.popHead; split <;> rfl
@[simp] theorem State.popHead_trdy (s : State) :
    (s.popHead).trdy = s.trdy := by
  unfold State.popHead; split <;> rfl
@[simp] theorem State.popHead_program (s : State) :
    (s.popHead).program = s.program := by
  unfold State.popHead; split <;> rfl
@[simp] theorem State.popHead_pos (s : State) :
    (s.popHead).pos = s.pos := by
  unfold State.popHead; split <;> rfl
@[simp] theorem State.popHead_schedule (s : State) :
    (s.popHead).schedule = s.schedule := by
  unfold State.popHead; split <;> rfl
@[simp] theorem State.popHead_turn (s : State) :
    (s.popHead).turn = s.turn := by
  unfold State.popHead; split <;> rfl
@[simp] theorem State.popHead_resetDone (s : State) :
    (s.popHead).resetDone = s.resetDone := by
  unfold State.popHead; split <;> rfl

/-! ### `State.genTurn`: the fields it leaves -/

@[simp] theorem State.genTurn_acc (s : State) :
    (s.genTurn).acc = s.acc := by
  unfold State.genTurn; split <;> rfl
@[simp] theorem State.genTurn_len (s : State) :
    (s.genTurn).len = s.len := by
  unfold State.genTurn; split <;> rfl
@[simp] theorem State.genTurn_cnt (s : State) :
    (s.genTurn).cnt = s.cnt := by
  unfold State.genTurn; split <;> rfl
@[simp] theorem State.genTurn_sst (s : State) :
    (s.genTurn).sst = s.sst := by
  unfold State.genTurn; split <;> rfl
@[simp] theorem State.genTurn_err (s : State) :
    (s.genTurn).err = s.err := by
  unfold State.genTurn; split <;> rfl
@[simp] theorem State.genTurn_rspq (s : State) :
    (s.genTurn).rspq = s.rspq := by
  unfold State.genTurn; split <;> rfl
@[simp] theorem State.genTurn_program (s : State) :
    (s.genTurn).program = s.program := by
  unfold State.genTurn; split <;> rfl
@[simp] theorem State.genTurn_pos (s : State) :
    (s.genTurn).pos = s.pos := by
  unfold State.genTurn; split <;> rfl
@[simp] theorem State.genTurn_popped (s : State) :
    (s.genTurn).popped = s.popped := by
  unfold State.genTurn; split <;> rfl
@[simp] theorem State.genTurn_schedule (s : State) :
    (s.genTurn).schedule = s.schedule := by
  unfold State.genTurn; split <;> rfl
@[simp] theorem State.genTurn_turn (s : State) :
    (s.genTurn).turn = s.turn := by
  unfold State.genTurn; split <;> rfl
@[simp] theorem State.genTurn_resetDone (s : State) :
    (s.genTurn).resetDone = s.resetDone := by
  unfold State.genTurn; split <;> rfl

/-- The one field of `raiseErr` that is always the same: the session state ends in ERROR (R204). -/
@[simp] theorem State.raiseErr_sst (s : State) (c : ErrCode) : (s.raiseErr c).sst = .error := by
  unfold State.raiseErr; split <;> simp_all

theorem State.raiseErr_err (s : State) (c : ErrCode) :
    (s.raiseErr c).err = if s.sst = .error then s.err else c.code := by
  unfold State.raiseErr; split <;> rfl

theorem State.raiseErr_of_error {s : State} (h : s.sst = .error) (c : ErrCode) : s.raiseErr c = s := by
  simp [State.raiseErr, h]

end Sys2Proof.Machine
end

