-- ==== Sys2Proof/Laws/Exec.lean ====
section
/-! SUPPORT. What each shared operation, each meaning and one step can do, said once. -/

namespace Sys2Proof.Machine

/-! ### The meanings -/

/-- Below a length `CNT + 1` is exact: it does not wrap (R23). -/
theorem cntPlusOne_of_lt {cnt len : Count} (h : cnt.toNat < len.toNat) (l : Count) :
    cntPlusOne cnt l = cnt + 1#28 ∧ (cnt + 1#28).toNat = cnt.toNat + 1 := by
  have hl := len.isLt
  refine ⟨if_pos (by omega), ?_⟩
  rw [BitVec.toNat_add]
  exact Nat.mod_eq_of_lt (by simp; omega)

/-- With `CNT <= LEN` the difference is exact (R34 item 1). -/
theorem lenMinusCnt_of_le {len cnt : Count} (h : cnt.toNat ≤ len.toNat) :
    lenMinusCnt len cnt = len - cnt ∧ (len - cnt).toNat = len.toNat - cnt.toNat :=
  ⟨if_pos h, BitVec.toNat_sub_of_le h⟩

/-- BYTE with an open session below its length and a written entry accumulates. -/
theorem execByte_accumulates {s : State} {b : Byte} {v : Word} (ha : s.sst = .active) (hc : s.cnt ≠ s.len)
    (hv : s.tblRead (tableIndex s.acc b) = some v) :
    execByte b s = .next (s.accumulate (updWith s.acc v)) := by
  simp [execByte, ha, hc, hv]

/-- Everything a BYTE that answers a next state can have done. -/
theorem execByte_cases {s t : State} {b : Byte} (h : execByte b s = .next t) :
    (s.sst = .idle ∧ t = s.raiseErr .noSession) ∨ (s.sst = .error ∧ t = s) ∨
      (s.sst = .active ∧ s.cnt = s.len ∧ t = s.raiseErr .overrun) ∨
      (s.sst = .active ∧ s.cnt ≠ s.len ∧
        ∃ v, s.tblRead (tableIndex s.acc b) = some v ∧ t = s.accumulate (updWith s.acc v)) := by
  unfold execByte at h
  split at h
  next hs => cases h; exact .inl ⟨hs, rfl⟩
  next hs => cases h; exact .inr (.inl ⟨hs, rfl⟩)
  next hs =>
    split at h
    next hc => cases h; exact .inr (.inr (.inl ⟨hs, hc, rfl⟩))
    next hc =>
      split at h
      next v hv => cases h; exact .inr (.inr (.inr ⟨hs, hc, v, hv, rfl⟩))
      next => cases h

/-- A TREAD that answers a next state read a written entry and pushed it. -/
theorem execTread_cases {s t : State} {i : Byte} (h : execTread i s = .next t) :
    ∃ v, s.tblRead i = some v ∧ t = s.push .data v := by
  unfold execTread at h
  split at h
  next v hv => cases h; exact ⟨v, hv, rfl⟩
  next => cases h

/-- Everything a command that answers a next state can have done, command by command. -/
theorem exec_cases {i : Instr} {s t : State} (h : exec i s = .next t) :
    (i = .nop ∧ t = s) ∨ (∃ len, i = .start len ∧ t = s.openSession len) ∨
      (∃ b, i = .byte b ∧ execByte b s = .next t) ∨
      (i = .finish ∧ t = (s.push s.finishRecord.tag s.finishRecord.data).clearSession) ∨
      (∃ k, i = .tread k ∧ ∃ v, s.tblRead k = some v ∧ t = s.push .data v) ∨
      (i = .status ∧ t = s.push .data s.statusWord) ∨
      (i = .remain ∧ t = s.push .data (zext32 (lenMinusCnt s.len s.cnt))) := by
  cases i with
  | nop => cases h; exact .inl ⟨rfl, rfl⟩
  | start len => cases h; exact .inr (.inl ⟨len, rfl, rfl⟩)
  | byte b => exact .inr (.inr (.inl ⟨b, rfl, h⟩))
  | finish => cases h; exact .inr (.inr (.inr (.inl ⟨rfl, rfl⟩)))
  | tread k => exact .inr (.inr (.inr (.inr (.inl ⟨k, rfl, execTread_cases h⟩))))
  | status => cases h; exact .inr (.inr (.inr (.inr (.inr (.inl ⟨rfl, rfl⟩)))))
  | remain => cases h; exact .inr (.inr (.inr (.inr (.inr (.inr ⟨rfl, rfl⟩)))))

/-! ### ENG's turn and one step -/

theorem perform_of_ok {w : Word} {i : Instr} (h : decode w = .ok i) (s : State) : perform w s = exec i s := by
  simp [perform, h]

theorem perform_of_illegal {w : Word} {e : Illegal} (h : decode w = .error e) (s : State) :
    perform w s = .next (s.raiseErr .illegalCmd) := by
  simp [perform, h, execIllegal]

theorem afterReset_next {s t : State} {o : Host.Outcome State Fault Refusal}
    (h : s.afterReset o = .next t) : s.resetDone = true ∧ o = .next t := by
  unfold State.afterReset at h
  split at h
  next hr => exact ⟨hr, h⟩
  next => cases h

/-- Everything ENG's turn that answers a next state can have done: a word accepted, or a hold. -/
theorem engTurn_cases {s t : State} (h : engTurn s = .next t) :
    (∃ w, s.offered = some w ∧ s.cmdReady false = true ∧ perform w s.advancePos = .next t) ∨
      ((s.offered = none ∨ s.cmdReady false = false) ∧ t = s) := by
  unfold engTurn at h
  split at h
  next w hw =>
    split at h
    next hc => exact .inl ⟨w, hw, hc, h⟩
    next hc => cases h; exact .inr ⟨.inr (by simpa using hc), rfl⟩
  next hw => cases h; exact .inr ⟨.inl hw, rfl⟩

@[simp] theorem State.takeMove_cmdReady (s : State) (rst : Bool) :
    s.takeMove.cmdReady rst = s.cmdReady rst := by simp [State.cmdReady]

@[simp] theorem State.takeMove_offered (s : State) : s.takeMove.offered = s.offered := by
  simp [State.offered]

/-- Everything one step that answers a next state can have done: GEN's turn, ENG accepting a word, ENG holding, HOST's pop,
or the edge with `rst = 1`. -/
theorem step_cases {s t : State} (h : step s = .next t) :
    (s.nextMove = .gen ∧ s.resetDone = true ∧ t = s.takeMove.genTurn) ∨
      (s.nextMove = .eng ∧ s.resetDone = true ∧ ∃ w, s.offered = some w ∧ s.cmdReady false = true ∧
        perform w s.takeMove.advancePos = .next t) ∨
      (s.nextMove = .eng ∧ s.resetDone = true ∧ (s.offered = none ∨ s.cmdReady false = false) ∧ t = s.takeMove) ∨
      (s.nextMove = .pop ∧ s.resetDone = true ∧ t = s.takeMove.popHead) ∨
      (s.nextMove = .reset ∧ t = s.takeMove.resetBlock) := by
  unfold step runMove at h
  split at h
  next hm =>
    obtain ⟨hr, h⟩ := afterReset_next h
    cases h
    exact .inl ⟨hm, by simpa using hr, rfl⟩
  next hm =>
    obtain ⟨hr, h⟩ := afterReset_next h
    have hr : s.resetDone = true := by simpa using hr
    rcases engTurn_cases h with ⟨w, hw, hc, hp⟩ | ⟨hn, rfl⟩
    · exact .inr (.inl ⟨hm, hr, w, by simpa using hw, by simpa using hc, hp⟩)
    · exact .inr (.inr (.inl ⟨hm, hr, by simpa using hn, rfl⟩))
  next hm =>
    obtain ⟨hr, h⟩ := afterReset_next h
    cases h
    exact .inr (.inr (.inr (.inl ⟨hm, by simpa using hr, rfl⟩)))
  next hm =>
    cases h
    exact .inr (.inr (.inr (.inr ⟨hm, rfl⟩)))

/-- GEN's turn after a first reset is a step that always answers. -/
theorem step_of_gen {s : State} (hm : s.nextMove = .gen) (hr : s.resetDone = true) :
    step s = .next s.takeMove.genTurn := by
  simp [step, runMove, hm, State.afterReset, hr]

/-- ENG's turn after a first reset. -/
theorem step_of_eng {s : State} (hm : s.nextMove = .eng) (hr : s.resetDone = true) : step s = engTurn s.takeMove := by
  simp [step, runMove, hm, State.afterReset, hr]

/-- HOST's turn to pop after a first reset is a step that always answers. -/
theorem step_of_pop {s : State} (hm : s.nextMove = .pop) (hr : s.resetDone = true) :
    step s = .next s.takeMove.popHead := by
  simp [step, runMove, hm, State.afterReset, hr]

/-- The edge with `rst = 1`, before the first reset too. -/
theorem step_of_reset {s : State} (hm : s.nextMove = .reset) : step s = .next s.takeMove.resetBlock := by
  simp [step, runMove, hm]

/-- GEN's turn writes the table only while GEN has a step. -/
theorem genTurn_tbl (s : State) :
    s.genTurn.tbl = if s.genEnabled then s.genWrite.tbl else s.tbl := by
  unfold State.genTurn; split <;> rfl

end Sys2Proof.Machine
end

