-- ==== Sys2Proof/Laws/PerInstr.lean ====
section
/-! SUPPORT. A statement about every command as syntax, one lemma per constructor: its word fits its own row of the opcode
map (spec/30_encoding.md R74). -/

namespace Sys2Proof.Laws.TableRow

/-- The row of `i` is one of the map's, and the word of `i` under the row's mask is the row's pattern. -/
def Statement (i : Instr) : Prop :=
  i.row ∈ opcodeRows ∧ encode i &&& i.row.mask = i.row.pattern

theorem nop : Statement .nop := by unfold Statement; decide

theorem start (len : Count) : Statement (.start len) := by
  refine ⟨by simp [opcodeRows, Instr.row], ?_⟩
  change (0x1#4 ++ len) &&& (0xF#4 ++ 0#28) = 0x1#4 ++ 0#28
  rw [BitVec.and_append, BitVec.and_zero]
  rfl

/-- An operand byte is cleared by the mask of format B. -/
theorem formatB_mask (op : BitVec 4) (b : Byte) :
    (op ++ (0#20 ++ b)) &&& (0xFFFFFF00#32) = op ++ (0#20 ++ 0#8) := by
  change (op ++ (0#20 ++ b)) &&& (0xF#4 ++ (0xFFFFF#20 ++ 0#8)) = _
  rw [BitVec.and_append, BitVec.and_append, BitVec.and_zero, BitVec.zero_and,
    show op &&& 0xF#4 = op from BitVec.and_allOnes]

theorem byte (b : Byte) : Statement (.byte b) :=
  ⟨by simp [opcodeRows, Instr.row], formatB_mask 0x2#4 b⟩

theorem finish : Statement .finish := by unfold Statement; decide

theorem tread (i : Byte) : Statement (.tread i) :=
  ⟨by simp [opcodeRows, Instr.row], formatB_mask 0x4#4 i⟩

theorem status : Statement .status := by unfold Statement; decide

theorem remain : Statement .remain := by unfold Statement; decide

end Sys2Proof.Laws.TableRow
end

