-- ==== Sys2Proof/Laws/Run.lean ====
section
/-! SUPPORT. Runs of several steps and runs under a sequence of turns, one step at a time. -/

namespace Sys2Proof.Machine

@[simp] theorem runSteps_zero (s : State) : runSteps 0 s = .next s := rfl

/-- A run whose first step answers `t` goes on from `t`. -/
theorem runSteps_succ {s t : State} (h : step s = .next t) (n : Nat) : runSteps (n + 1) s = runSteps n t := by
  have h' : Sys2Proof.core.step s = .next t := h
  simp only [runSteps, Host.Core.run]
  split
  next x hx => cases h'.symm.trans hx; rfl
  next x hx => cases h'.symm.trans hx
  next x hx => cases h'.symm.trans hx

/-! ### Runs under a sequence of turns -/

@[simp] theorem State.withTurn_nextMove (s : State) (m : Move) : (s.withTurn m).nextMove = m := rfl

/-- Settling a turn and using it up leaves the schedule empty and everything else as it was. -/
@[simp] theorem State.withTurn_takeMove (s : State) (m : Move) :
    (s.withTurn m).takeMove = { s with schedule := [] } := rfl

/-- One turn of GEN, of ENG and of HOST's pop, after a first reset. -/
theorem step_withTurn_gen {s : State} (hr : s.resetDone = true) :
    step (s.withTurn .gen) = .next (State.genTurn { s with schedule := [] }) := step_of_gen rfl hr

theorem step_withTurn_eng {s : State} (hr : s.resetDone = true) :
    step (s.withTurn .eng) = engTurn { s with schedule := [] } := step_of_eng rfl hr

theorem step_withTurn_pop {s : State} (hr : s.resetDone = true) :
    step (s.withTurn .pop) = .next (State.popHead { s with schedule := [] }) := step_of_pop rfl hr

@[simp] theorem runFrom_zero (s : State) (turns : Nat → Move) : runFrom s turns 0 = .next s := rfl

/-- Where the machine has come to `s` after `n` turns, the next turn is one step from `s`. -/
theorem runFrom_succ {start s : State} {turns : Nat → Move} {n : Nat} (h : runFrom start turns n = .next s) :
    runFrom start turns (n + 1) = step (s.withTurn (turns n)) := by
  simp [runFrom, h]

theorem runAfter_zero (program : List Word) (turns : Nat → Move) :
    runAfter program turns 0 = .next (State.launch program) := rfl

theorem runAfter_succ {program : List Word} {s : State} {turns : Nat → Move} {n : Nat}
    (h : runAfter program turns n = .next s) : runAfter program turns (n + 1) = step (s.withTurn (turns n)) :=
  runFrom_succ h

/-- A machine that has come to a state after `n + 1` turns had come to one after `n`. -/
theorem runFrom_pred {start t : State} {turns : Nat → Move} {n : Nat} (h : runFrom start turns (n + 1) = .next t) :
    ∃ s, runFrom start turns n = .next s ∧ step (s.withTurn (turns n)) = .next t := by
  simp only [runFrom] at h
  split at h
  next s hs => exact ⟨s, hs, h⟩
  next => cases h
  next => cases h

/-- The induction of a run, once: what holds at the start and every turn keeps (answering a next state) holds after each
number of turns, and no turn stops the machine. -/
theorem runFrom_induction {start : State} {turns : Nat → Move} {p : State → Prop} (h0 : p start)
    (hs : ∀ n s, p s → ∃ t, step (s.withTurn (turns n)) = .next t ∧ p t) (n : Nat) :
    ∃ s, runFrom start turns n = .next s ∧ p s := by
  induction n with
  | zero => exact ⟨start, rfl, h0⟩
  | succ n ih =>
    obtain ⟨s, h, hp⟩ := ih
    obtain ⟨t, ht, hpt⟩ := hs n s hp
    exact ⟨t, (runFrom_succ h).trans ht, hpt⟩

/-- ENG is enabled exactly where a word is offered and the port is ready. -/
theorem engEnabled_iff (s : State) : s.engEnabled = true ↔ ∃ w, s.offered = some w ∧ s.cmdReady false = true := by
  simp [State.engEnabled, Option.isSome_iff_exists]

/-- Where ENG has no step, its turn is a hold. -/
theorem engTurn_of_not_enabled {s : State} (h : s.engEnabled = false) : engTurn s = .next s := by
  unfold engTurn
  split
  next w hw => simp_all [State.engEnabled]
  next => rfl

/-! ### Accepted words -/

/-- A word is accepted exactly on ENG's turn, after a reset, with a word offered and the port ready (R53). -/
theorem acceptedWord_of {s : State} {w : Word} (hm : s.nextMove = .eng) (hr : s.resetDone = true)
    (ho : s.offered = some w) (hc : s.cmdReady false = true) : s.acceptedWord = some w := by
  simp [State.acceptedWord, hm, hr, ho, hc]

/-- With another turn, no word offered or the port not ready, no word is accepted. -/
theorem acceptedWord_none {s : State} (h : s.nextMove ≠ .eng ∨ s.offered = none ∨ s.cmdReady false = false) :
    s.acceptedWord = none := by
  unfold State.acceptedWord
  split
  · next hh =>
    rcases h with h | h | h
    · exact absurd hh.1 h
    · exact h
    · rw [hh.2.2] at h; cases h
  · rfl

end Sys2Proof.Machine
end

