-- ==== Sys2Proof/Laws/Table.lean ====
section
/-! SUPPORT. The laws of the table: a write keeps the canonical form, a read after a write, and what the table that GEN
leaves reads as. -/

namespace Sys2Proof.Machine

@[simp] theorem Table.read_nil (i : Nat) : Table.read [] i = none := rfl

/-- A write adds no index but its own. -/
theorem Table.mem_write {t : Table} {i : Nat} {v : Word} {p : Nat × Word} (h : p ∈ Table.write t i v) :
    p = (i, v) ∨ p ∈ t := by
  induction t with
  | nil => simpa [Table.write] using h
  | cons q t ih =>
    obtain ⟨k, u⟩ := q
    unfold Table.write at h
    split at h
    · simpa using h
    · split at h
      · rcases List.mem_cons.1 h with h | h
        · exact .inl h
        · exact .inr (List.mem_cons_of_mem _ h)
      · rcases List.mem_cons.1 h with h | h
        · exact .inr (h ▸ List.mem_cons_self)
        · exact (ih h).imp_right (List.mem_cons_of_mem _)

/-- A write within the index range keeps the canonical form. -/
theorem Table.write_wf {t : Table} (ht : Table.wf t) {i : Nat} (hi : i < Config.nTbl) (v : Word) :
    Table.wf (Table.write t i v) := by
  induction t with
  | nil => simpa [Table.write, Table.wf] using hi
  | cons q t ih =>
    obtain ⟨k, u⟩ := q
    obtain ⟨hp, hb⟩ := ht
    have hkt := List.pairwise_cons.1 hp
    have hbk : k < Config.nTbl := hb (k, u) List.mem_cons_self
    have hbt : ∀ p ∈ t, p.1 < Config.nTbl := fun p hp => hb p (List.mem_cons_of_mem _ hp)
    unfold Table.write
    split
    case isTrue hik =>
      refine ⟨List.pairwise_cons.2 ⟨fun p hm => ?_, hp⟩, fun p hm => ?_⟩
      · rcases List.mem_cons.1 hm with rfl | hm
        · exact hik
        · exact Nat.lt_trans hik (hkt.1 p hm)
      · rcases List.mem_cons.1 hm with rfl | hm
        · exact hi
        · exact hb p hm
    case isFalse hik =>
      split
      case isTrue he =>
        subst he
        refine ⟨List.pairwise_cons.2 ⟨hkt.1, hkt.2⟩, fun p hm => ?_⟩
        rcases List.mem_cons.1 hm with rfl | hm
        · exact hi
        · exact hbt p hm
      case isFalse he =>
        obtain ⟨hp', hb'⟩ := ih ⟨hkt.2, hbt⟩
        refine ⟨List.pairwise_cons.2 ⟨fun p hm => ?_, hp'⟩, fun p hm => ?_⟩
        · rcases Table.mem_write hm with rfl | hm
          · simp only
            omega
          · exact hkt.1 p hm
        · rcases List.mem_cons.1 hm with rfl | hm
          · exact hbk
          · exact hb' p hm

/-- A read of the index written gives the value written. -/
@[simp] theorem Table.read_write_same (t : Table) (i : Nat) (v : Word) :
    Table.read (Table.write t i v) i = some v := by
  induction t with
  | nil => simp [Table.write, Table.read]
  | cons q t ih =>
    obtain ⟨k, u⟩ := q
    unfold Table.write
    split
    · simp [Table.read]
    · split
      · simp [Table.read]
      · next h => simp [Table.read, ih, Ne.symm h]

/-- A read of another index is as before the write. -/
theorem Table.read_write_other (t : Table) {i j : Nat} (h : j ≠ i) (v : Word) :
    Table.read (Table.write t i v) j = Table.read t j := by
  induction t with
  | nil => simp [Table.write, Table.read, Ne.symm h]
  | cons q t ih =>
    obtain ⟨k, u⟩ := q
    unfold Table.write
    split
    · simp [Table.read, Ne.symm h]
    · split
      · next _ he => subst he; simp [Table.read, Ne.symm h]
      · simp [Table.read, ih]

/-- A table listed from a function reads back the function at a listed index. -/
theorem Table.read_map (l : List Nat) (f : Nat → Word) {i : Nat} (h : i ∈ l) :
    Table.read (l.map fun k => (k, f k)) i = some (f i) := by
  induction l with
  | nil => simp at h
  | cons k l ih =>
    by_cases hk : k = i
    · simp [Table.read, hk]
    · have : i ∈ l := by simpa [Ne.symm hk] using h
      simp [Table.read, hk, ih this]

/-- Every entry of the built table is `GenEntry` of its index (R105). -/
theorem builtTable_read (i : Byte) : Table.read builtTable i.toNat = some (genEntry i) := by
  have h := Table.read_map (List.range Config.nTbl) (fun k => genEntry (BitVec.ofNat 8 k)) (i := i.toNat)
    (List.mem_range.2 i.isLt)
  simpa [builtTable] using h

/-- The built table is in canonical form. -/
theorem builtTable_wf : Table.wf builtTable := by
  refine ⟨?_, ?_⟩
  · simpa [builtTable, List.pairwise_map] using List.pairwise_lt_range
  · intro p hp
    obtain ⟨k, hk, rfl⟩ := List.mem_map.1 hp
    exact List.mem_range.1 hk

/-! ### One canonical form: tables that read alike are equal data -/

/-- An index outside all the listed ones is unwritten. -/
theorem Table.read_none {t : Table} {i : Nat} (h : ∀ p ∈ t, p.1 ≠ i) : Table.read t i = none := by
  induction t with
  | nil => rfl
  | cons p t ih =>
    rw [Table.read, if_neg (h p List.mem_cons_self)]
    exact ih fun q hq => h q (List.mem_cons_of_mem _ hq)

/-- The head of a table in canonical form is not listed again in its tail, and no index below the head is listed. -/
theorem Table.read_below {k : Nat} {v : Word} {t : Table} (h : ∀ p ∈ t, k < p.1) {i : Nat} (hi : i < k) :
    Table.read ((k, v) :: t) i = none := by
  refine Table.read_none fun p hp => ?_
  rcases List.mem_cons.1 hp with rfl | hp
  · exact (Nat.ne_of_lt hi).symm
  · have := h p hp; omega

/-- Two tables in canonical form with the same reads are equal. -/
theorem Table.eq_of_read {t u : Table} (ht : Table.wf t) (hu : Table.wf u)
    (h : ∀ i, Table.read t i = Table.read u i) : t = u := by
  obtain ⟨ht, -⟩ := ht
  obtain ⟨hu, -⟩ := hu
  induction t generalizing u with
  | nil =>
    cases u with
    | nil => rfl
    | cons q u => have := h q.1; simp [Table.read] at this
  | cons p t ih =>
    cases u with
    | nil => have := h p.1; simp [Table.read] at this
    | cons q u =>
      obtain ⟨k, v⟩ := p
      obtain ⟨l, w⟩ := q
      rw [List.pairwise_cons] at ht hu
      obtain rfl : k = l := by
        rcases Nat.lt_trichotomy k l with hlt | he | hlt
        · have := h k; rw [Table.read_below hu.1 hlt] at this; simp [Table.read] at this
        · exact he
        · have := h l; rw [Table.read_below ht.1 hlt] at this; simp [Table.read] at this
      obtain rfl : v = w := by simpa [Table.read] using h k
      refine congrArg _ (ih (fun i => ?_) ht.2 hu.2)
      by_cases hi : k = i
      · subst hi
        rw [Table.read_none fun p hp => (Nat.ne_of_lt (ht.1 p hp)).symm,
          Table.read_none fun p hp => (Nat.ne_of_lt (hu.1 p hp)).symm]
      · simpa [Table.read, hi] using h i

end Sys2Proof.Machine
end

