-- ==== Sys2Proof/Tests/Slice0.lean ====
section
/-! SUPPORT. Tests on fixed values, their expected results taken from spec/95_test_vectors.md, and one witness for the
hypotheses of each obligation that has some. -/

namespace Sys2Proof.Tests

open Sys2Proof Sys2Proof.Machine

/-! ### Helpers -/

/-- Whether an outcome is a next state with a property. -/
def nextWith (o : Host.Outcome State Fault Refusal) (p : State → Bool) : Bool :=
  match o with
  | .next t => p t
  | .fault _ => false
  | .refused _ => false

/-- The state after reset and the 256 steps of GEN, ENG's turn next, with one word offered. -/
def offering (w : Word) : State :=
  { State.reset with
    tbl := builtTable, gidx := 256#9, trdy := true, program := [w], schedule := [.eng] }

/-- An open session. -/
def active (len cnt : Count) (acc : Word) (w : Word) : State :=
  { offering w with sst := .active, len := len, cnt := cnt, acc := acc }

/-- A session in error. -/
def failed (code : BitVec 4) (w : Word) : State := { offering w with sst := .error, err := code }

/-- A state whose response queue is full, whatever the depth. -/
def full (w : Word) : State :=
  { offering w with rspq := List.replicate Config.rspDepth ⟨.data, 0#32⟩ }

/-! ### Well-formedness: each check refuses an ill-formed line (R77, R78) -/

theorem test_start_out_of_range : AsmLine.wellFormed (.start 268435456) = false := by decide
theorem test_byte_out_of_range : AsmLine.wellFormed (.byte (.num 256)) = false := by decide
theorem test_quoted_not_ascii : AsmLine.wellFormed (.byte (.quoted 'é')) = false := by decide
theorem test_tread_out_of_range : AsmLine.wellFormed (.tread 256) = false := by decide
theorem test_word_out_of_range : AsmLine.wellFormed (.word 4294967296) = false := by decide
theorem test_bytes_text_not_ascii : AsmLine.wellFormed (.bytesText ['a', 'é']) = false := by decide
theorem test_bytes_list_out_of_range : AsmLine.wellFormed (.bytesList [.num 0, .num 256]) = false := by decide
theorem test_crc_text_not_ascii : AsmLine.wellFormed (.crcText ['é']) = false := by decide
theorem test_crc_list_out_of_range : AsmLine.wellFormed (.crcList [.num 300]) = false := by decide
theorem test_crc_text_too_long (s : List Char) (h : s.length = 2 ^ 28) : (AsmLine.crcText s).wellFormed = false := by
  simp [AsmLine.wellFormed, h]
theorem test_crc_list_too_long (vs : List AsmOperand) (h : vs.length = 2 ^ 28) :
    (AsmLine.crcList vs).wellFormed = false := by
  simp [AsmLine.wellFormed, h]

/-! ### Decoding (section 6), each word written from its format -/

theorem test_decode_nop : decode 0b0000_0000000000000000000000000000#32 = .ok .nop := by decide
theorem test_decode_nop_reserved : decode 0x00000001#32 = .error .reservedField := by decide
theorem test_decode_start :
    decode 0b0001_1111111111111111111111111111#32 = .ok (.start 268435455#28) := by decide
theorem test_decode_start_zero : decode 0x10000000#32 = .ok (.start 0#28) := by decide
theorem test_decode_byte : decode 0b0010_00000000000000000000_01001111#32 = .ok (.byte 0x4F#8) := by decide
theorem test_decode_byte_bit_8 : decode 0x20000100#32 = .error .reservedField := by decide
theorem test_decode_byte_bit_27 : decode 0x28000000#32 = .error .reservedField := by decide
theorem test_decode_finish : decode 0b0011_0000000000000000000000000000#32 = .ok .finish := by decide
theorem test_decode_finish_bit_27 : decode 0x38000000#32 = .error .reservedField := by decide
theorem test_decode_tread : decode 0b0100_00000000000000000000_10101011#32 = .ok (.tread 0xAB#8) := by decide
theorem test_decode_tread_bit_12 : decode 0x40001000#32 = .error .reservedField := by decide
theorem test_decode_status : decode 0b0101_0000000000000000000000000000#32 = .ok .status := by decide
theorem test_decode_remain : decode 0b0110_0000000000000000000000000000#32 = .ok .remain := by decide
theorem test_decode_remain_bit_0 : decode 0x60000001#32 = .error .reservedField := by decide
theorem test_decode_opcode_7 : decode 0x70000000#32 = .error .reservedOpcode := by decide
theorem test_decode_opcode_15 : decode 0xFFFFFFFF#32 = .error .reservedOpcode := by decide
theorem test_decode_table_word : decodeTableWord 32 0x2000004F = some (.byte 0x4F#8) := by decide
theorem test_encode_words :
    encode (.start 4#28) = 0x10000004#32 ∧ encode (.byte 0x4F#8) = 0x2000004F#32 ∧
      encode (.tread 0xFF#8) = 0x400000FF#32 := by decide
/-- Program P6's first words (section 9). -/
theorem test_assemble_crc_pseudo :
    assemble (.crcText ['1', '2']) = some [0x10000002#32, 0x20000031#32, 0x20000032#32, 0x30000000#32] := by decide

/-! ### The table and the checksum (sections 2 to 5) -/

theorem test_genEntry_80 : genEntry 0x80#8 = 0x690CE0EE#32 := by decide +kernel
theorem test_genEntry_ca : genEntry 0xCA#8 = 0x7200464F#32 := by decide +kernel
theorem test_upd_all_ones : upd 0xFFFFFFFF#32 0x00#8 = 0x4E08BFB4#32 := by decide +kernel
theorem test_upd_pure_shift : upd 0x12345678#32 0x12#8 = 0x34567800#32 := by decide +kernel
theorem test_crc32_oggs : crc32 [0x4F#8, 0x67#8, 0x67#8, 0x53#8] = 0x5FB0A94F#32 := by decide +kernel
theorem test_crc32Bitwise_abc : crc32Bitwise [0x61#8, 0x62#8, 0x63#8] = 0x2C17398C#32 := by decide +kernel
/-- Program P2: the caller writes 4F A9 B0 5F (R56). -/
theorem test_fieldByte_oggs :
    (List.finRange 4).map (fieldByte 0x5FB0A94F#32) = [0x4F#8, 0xA9#8, 0xB0#8, 0x5F#8] := by decide

/-! ### The commands, one step each (section 7) -/

/-- V2. -/
theorem test_nop_same :
    nextWith (exec .nop (active 4#28 1#28 0x0CC9CDCA#32 0#32)) (fun t => t.acc == 0x0CC9CDCA#32 && t.cnt == 1#28) := by
  decide
/-- V4. -/
theorem test_start_restarts :
    nextWith (exec (.start 9#28) (active 4#28 2#28 0x4E23C7F6#32 0#32))
      (fun t => t.sst == .active && t.len == 9#28 && t.cnt == 0#28 && t.acc == 0#32) := by decide
/-- V5. -/
theorem test_start_clears_error :
    nextWith (exec (.start 1#28) (failed 3#4 0#32)) (fun t => t.sst == .active && t.err == 0#4) := by decide
/-- V8. -/
theorem test_finish_checksum :
    nextWith (exec .finish (active 4#28 4#28 0x5FB0A94F#32 0#32))
      (fun t => t.rspq == [⟨.crc, 0x5FB0A94F#32⟩] && t.sst == .idle && t.acc == 0#32 && t.len == 0#28) := by decide
/-- V9. -/
theorem test_finish_underrun :
    nextWith (exec .finish (active 3#28 1#28 0xA864DB20#32 0#32)) (fun t => t.rspq == [⟨.error, 4#32⟩]) := by decide
/-- V12. -/
theorem test_byte_accumulates :
    nextWith (exec (.byte 0x4F#8) (active 4#28 0#28 0#32 0#32))
      (fun t => t.acc == 0x0CC9CDCA#32 && t.cnt == 1#28 && t.sst == .active) := by decide +kernel
/-- V14. -/
theorem test_byte_overrun :
    nextWith (exec (.byte 0x01#8) (active 1#28 1#28 0#32 0#32))
      (fun t => t.sst == .error && t.err == 3#4 && t.cnt == 1#28) := by decide
/-- V20. -/
theorem test_tread_last :
    nextWith (exec (.tread 0xFF#8) (offering 0#32)) (fun t => t.rspq == [⟨.data, 0xB1F740B4#32⟩]) := by decide +kernel
/-- V25. -/
theorem test_status_overrun :
    nextWith (exec .status (failed 3#4 0#32)) (fun t => t.rspq == [⟨.data, 0x00000036#32⟩]) := by decide
/-- V22. -/
theorem test_status_active :
    nextWith (exec .status (active 1#28 0#28 0#32 0#32)) (fun t => t.rspq == [⟨.data, 0x00000005#32⟩]) := by decide
/-- V28. -/
theorem test_remain_longest :
    nextWith (exec .remain (active 0x0FFFFFFF#28 0#28 0#32 0#32)) (fun t => t.rspq == [⟨.data, 0x0FFFFFFF#32⟩]) := by
  decide

/-! ### One step of the machine -/

/-- Section 3, GEN's second step. -/
theorem test_gen_step :
    nextWith (step { State.reset with schedule := [.gen], gidx := 1#9, tbl := [(0, 0#32)] })
      (fun t => t.tbl == [(0, 0#32), (1, 0x04C11DB7#32)] && t.gidx == 2#9 && !t.trdy) := by decide +kernel
/-- Section 3, GEN's last step sets `TRDY`. -/
theorem test_gen_last_step :
    nextWith (step { State.reset with schedule := [.gen], gidx := 255#9 })
      (fun t => t.tbl == [(255, 0xB1F740B4#32)] && t.gidx == 256#9 && t.trdy) := by decide +kernel
/-- V29: an illegal word in IDLE, accepted. -/
theorem test_step_illegal :
    nextWith (step (offering 0x70000000#32))
      (fun t => t.sst == .error && t.err == 1#4 && t.pos == 1 && t.rspq == []) := by decide +kernel
/-- V32: held while the table is not ready. -/
theorem test_step_held :
    nextWith (step { offering 0x30000000#32 with trdy := false, gidx := 10#9 })
      (fun t => t.pos == 0 && t.rspq == []) := by decide +kernel
/-- The first instruction after reset: TREAD 0x80 placed where step takes it (program P4, record 2). -/
theorem test_withFetchWord_tread :
    nextWith (step (State.reset.withFetchWord 32 0x40000080))
      (fun t => t.rspq == [⟨.data, 0x690CE0EE#32⟩] && t.pos == 1 && t.schedule == []) := by decide +kernel
theorem test_withFetchWord_start :
    nextWith (step (State.reset.withFetchWord 32 0x10000004))
      (fun t => t.sst == .active && t.len == 4#28) := by decide +kernel
/-- P2's first checksum word after its START, through the built table. -/
theorem test_withFetchWord_byte :
    nextWith (step ({ State.reset with sst := .active, len := 4#28 }.withFetchWord 32 0x2000004F))
      (fun t => t.acc == 0x0CC9CDCA#32 && t.cnt == 1#28) := by decide +kernel

/-! ### Witnesses: states and operands that meet each obligation's hypotheses together -/

theorem exists_next {o : Host.Outcome State Fault Refusal} {p : State → Bool} (h : nextWith o p = true) :
    ∃ t, o = .next t ∧ p t = true := by
  unfold nextWith at h
  split at h
  next t => exact ⟨t, rfl, h⟩
  next => cases h
  next => cases h

/-- Each state of the helpers meets the invariant, in each session state. -/
theorem built_inv {s : State} (ht : s.tbl = builtTable) (hg : s.gidx = 256#9) (hr : s.trdy = true)
    (hq : s.rspq = []) (hp : s.pos = 0) (hc : s.cnt.toNat ≤ s.len.toNat)
    (hi : s.sst = .idle → s.acc = 0#32 ∧ s.len = 0#28 ∧ s.cnt = 0#28 ∧ s.err = 0#4)
    (ha : s.sst = .active → s.err = 0#4) (he : s.sst = .error → s.err = 1#4 ∨ s.err = 2#4 ∨ s.err = 3#4) :
    s.Inv where
  tblWf := ht ▸ builtTable_wf
  gidxLe := by rw [hg]; decide
  cntLe := hc
  idleClear := hi
  activeNoErr := ha
  errorCode := he
  readyIff := by rw [hg, hr]; decide
  written i _ := by simp only [State.tblRead, ht]; exact builtTable_read i
  unwritten i h := by rw [hg] at h; exact absurd h (Nat.not_le.2 i.isLt)
  room := by simp [hq]
  posLe := by simp [hp]

theorem offering_inv (w : Word) : (offering w).Inv :=
  built_inv rfl rfl rfl rfl rfl (Nat.le_refl _) (fun _ => ⟨rfl, rfl, rfl, rfl⟩) (fun h => nomatch h) (fun h => nomatch h)
theorem active_inv {len cnt : Count} (acc : Word) (w : Word) (h : cnt.toNat ≤ len.toNat) :
    (active len cnt acc w).Inv :=
  built_inv rfl rfl rfl rfl rfl h (fun h => nomatch h) (fun _ => rfl) (fun h => nomatch h)
theorem failed_inv {code : BitVec 4} (w : Word) (h : code = 1#4 ∨ code = 2#4 ∨ code = 3#4) :
    (failed code w).Inv :=
  built_inv rfl rfl rfl rfl rfl (Nat.le_refl _) (fun h => nomatch h) (fun h => nomatch h) (fun _ => h)
theorem reset_gen_inv : State.Inv { State.reset with schedule := [.gen] } where
  tblWf := by decide
  gidxLe := by decide
  cntLe := by decide
  idleClear _ := by decide
  activeNoErr h := nomatch h
  errorCode h := nomatch h
  readyIff := by decide
  written _ h := absurd h (Nat.not_lt_zero _)
  unwritten _ _ := rfl
  room := Nat.zero_le _
  posLe := by decide

theorem witness_EncodeOfDecodedReturnsWord : decode 0x200000FF#32 = .ok (.byte 0xFF#8) := by decide
theorem witness_WordIsCommandExactlyWhenMaskMatches :
    (∃ r ∈ opcodeRows, 0x1FFFFFFF#32 &&& r.mask = r.pattern) ∧ 7 ≤ (opField 0x70000000#32).toNat := by decide
theorem witness_IllegalWordsAreTheReservedOnesAndRaise :
    (decode 0x20000100#32 = .error .reservedField ∧ (offering 0#32).sst ≠ .error) ∧
      (decode 0xFFFFFFFF#32 = .error .reservedOpcode ∧ (failed 3#4 0#32).sst = .error) := by decide
theorem witness_AssemblerEmitsWordOrError :
    268435455 < 2 ^ 28 ∧ 2 ^ 28 ≤ 268435456 ∧ 2 ^ 32 ≤ 4294967296 ∧ 255 < 256 ∧ (Char.ofNat 127).toNat ≤ 127 ∧ 127 < (Char.ofNat 128).toNat := by
  decide
theorem witness_PseudoInstructionsExpand :
    ((∀ c ∈ ['a', 'b'], c.toNat ≤ 127) ∧ ['a', 'b'].length < 2 ^ 28) ∧ (∃ c ∈ ['a', 'é'], 127 < c.toNat) ∧
      ((∀ v ∈ [AsmOperand.num 0, .quoted 'a', .num 255],
          (∃ n, v = .num n ∧ n < 256) ∨ ∃ c : Char, v = .quoted c ∧ c.toNat ≤ 127) ∧
        [AsmOperand.num 0, .quoted 'a', .num 255].length < 2 ^ 28) ∧
      (∃ v ∈ [AsmOperand.num 0, .num 256], (∃ n, v = .num n ∧ 256 ≤ n) ∨ ∃ c : Char, v = .quoted c ∧ 127 < c.toNat) ∧
      (∃ v ∈ [AsmOperand.quoted 'é'], (∃ n, v = .num n ∧ 256 ≤ n) ∨ ∃ c : Char, v = .quoted c ∧ 127 < c.toNat) ∧
      2 ^ 28 ≤ (List.replicate (2 ^ 28) 'a').length ∧ 2 ^ 28 ≤ (List.replicate (2 ^ 28) (AsmOperand.num 0)).length := by
  refine ⟨by simp, by simp, by simp, by simp, by simp, ?_, ?_⟩ <;> rw [List.length_replicate]
theorem witness_NopWritesNothing :
    (opField 0x00000001#32 = 0#4 ∧ low28 0x00000001#32 ≠ 0#28) ∧
      ((full 0#32).nextMove = .eng ∧ (full 0#32).resetDone = true ∧
        (full 0#32).offered = some 0x00000000#32 ∧ (full 0#32).rspq.length = Config.rspDepth) :=
  ⟨by decide, rfl, rfl, rfl, by simp [full]⟩
theorem witness_FinishReportsAndClears :
    ((active 4#28 4#28 0x5FB0A94F#32 0#32).sst = .active ∧
        (active 4#28 4#28 0x5FB0A94F#32 0#32).cnt = (active 4#28 4#28 0x5FB0A94F#32 0#32).len) ∧
      ((active 4#28 3#28 0#32 0#32).sst = .active ∧ (active 4#28 3#28 0#32 0#32).cnt ≠ (active 4#28 3#28 0#32 0#32).len) ∧
      (failed 1#4 0#32).sst = .error ∧ (offering 0#32).sst = .idle ∧
      ((offering 0#32).cmdReady false = true ∧ ∃ t, exec .finish (offering 0#32) = .next t) :=
  ⟨by decide, by decide, by decide, by decide, by decide +kernel, _, rfl⟩
theorem witness_ByteAccumulatesOrRaises :
    (offering 0#32).sst = .idle ∧ (failed 2#4 0#32).sst = .error ∧
      ((active 0#28 0#28 0#32 0#32).sst = .active ∧ (active 0#28 0#28 0#32 0#32).cnt = (active 0#28 0#28 0#32 0#32).len) ∧
      (∀ s, s = active 0x0FFFFFFF#28 0x0FFFFFFE#28 0xFFFFFFFF#32 0#32 →
        s.sst = .active ∧ s.cnt ≠ s.len ∧ s.tblRead (s.acc.extractLsb' 24 8 ^^^ 0xFF#8) = some 0#32 ∧
          s.cnt.toNat < s.len.toNat) := by
  refine ⟨by decide, by decide, by decide, fun s hs => hs ▸ ⟨by decide, by decide, by decide +kernel, by decide⟩⟩
theorem witness_TreadPushesTableEntry : (offering 0#32).tblRead 0xFF#8 = some 0xB1F740B4#32 := by decide +kernel
theorem witness_StatusWordIsOneOfFive :
    ((offering 0#32).Inv ∧ (offering 0#32).trdy = true) ∧
      ((active 4#28 4#28 0#32 0#32).Inv ∧ (active 4#28 4#28 0#32 0#32).trdy = true) ∧
      ((failed 3#4 0#32).Inv ∧ (failed 3#4 0#32).trdy = true) :=
  ⟨⟨offering_inv _, rfl⟩, ⟨active_inv _ _ (by decide), rfl⟩, ⟨failed_inv _ (by decide), rfl⟩⟩
theorem witness_RemainPushesBytesExpected :
    (active 4#28 4#28 0#32 0#32).cnt.toNat ≤ (active 4#28 4#28 0#32 0#32).len.toNat ∧
      ((offering 0#32).Inv ∧ (offering 0#32).sst = .idle) := ⟨by decide, offering_inv _, rfl⟩
theorem witness_UnwrittenEntryReadFaults :
    State.reset.tblRead 0xFF#8 = none ∧
      (∀ s, s = { active 1#28 0#28 0#32 0#32 with tbl := [] } →
        s.sst = .active ∧ s.cnt ≠ s.len ∧ s.tblRead (s.acc.extractLsb' 24 8 ^^^ 0#8) = none) :=
  ⟨rfl, fun _ hs => hs ▸ ⟨rfl, by decide, rfl⟩⟩
theorem witness_ErrorEntryKeepsFirstCode :
    (offering 0#32).sst ≠ .error ∧ (failed 2#4 0#32).sst = .error := by decide
theorem witness_CommandsLeaveTableAndHost : ∃ t, exec .finish (offering 0#32) = .next t := ⟨_, rfl⟩
theorem witness_OnlyFinishAndQueriesPush :
    (∃ t, exec .remain (offering 0#32) = .next t) ∧ ∃ t, exec (.start 1#28) (offering 0#32) = .next t :=
  ⟨⟨_, rfl⟩, ⟨_, rfl⟩⟩
theorem witness_SessionLifecycleTable :
    (∃ t, exec (.start 0#28) (failed 1#4 0#32) = .next t) ∧ (∃ t, exec (.byte 0#8) (offering 0#32) = .next t) ∧
      (∃ t, exec (.byte 0#8) (active 1#28 0#28 0#32 0#32) = .next t ∧ (t.cnt == 1#28) = true) ∧
      (∃ t, exec (.byte 0#8) (active 0#28 0#28 0#32 0#32) = .next t) ∧
      (∃ t, exec (.byte 0#8) (failed 1#4 0#32) = .next t) ∧ (∃ t, exec .finish (failed 1#4 0#32) = .next t) ∧
      (∃ t, exec .finish (active 4#28 4#28 0#32 0#32) = .next t) ∧ (∃ t, exec .finish (active 4#28 3#28 0#32 0#32) = .next t) ∧
      ∃ t, exec .status (offering 0#32) = .next t :=
  ⟨⟨_, rfl⟩, ⟨_, rfl⟩, exists_next (p := fun t => t.cnt == 1#28) (by decide +kernel), ⟨_, rfl⟩, ⟨_, rfl⟩, ⟨_, rfl⟩,
    ⟨_, rfl⟩, ⟨_, rfl⟩, ⟨_, rfl⟩⟩
theorem witness_OnlyFinishStartAndResetLeaveError :
    (∃ t, step (failed 2#4 0x30000000#32) = .next t ∧ decide (t.sst ≠ .error) = true) ∧
      (∃ t, step (failed 2#4 0x10000001#32) = .next t ∧ decide (t.sst ≠ .error) = true) ∧
      (∃ t, step { failed 2#4 0#32 with schedule := [.reset] } = .next t ∧ decide (t.sst ≠ .error) = true) ∧
      (failed 2#4 0x30000000#32).sst = .error ∧
      ((failed 2#4 0x30000000#32).acceptedWord = some 0x30000000#32 ∧ decode 0x30000000#32 = .ok .finish) ∧
      ((failed 2#4 0x10000001#32).sst = .error ∧ (failed 2#4 0x10000001#32).acceptedWord = some 0x10000001#32 ∧
        decode 0x10000001#32 = .ok (.start 1#28)) ∧
      (State.sst { failed 2#4 0#32 with schedule := [.reset] } = .error ∧
        State.nextMove { failed 2#4 0#32 with schedule := [.reset] } = .reset) ∧
      ∃ t, exec .status (failed 2#4 0#32) = .next t :=
  ⟨exists_next (by decide +kernel), exists_next (by decide +kernel), exists_next (by decide +kernel), rfl,
    ⟨by decide +kernel, by decide⟩, ⟨rfl, by decide +kernel, by decide⟩, ⟨rfl, rfl⟩, _, rfl⟩
theorem witness_ErrorCodeHeldWhileInError :
    (∃ t, step (failed 3#4 0x70000000#32) = .next t ∧ (t.sst == .error) = true) ∧
      (failed 3#4 0x70000000#32).sst = .error ∧
      ∀ w, (failed 3#4 0x70000000#32).acceptedWord = some w → ∀ n, decode w ≠ .ok (.start n) := by
  refine ⟨exists_next (p := fun t => t.sst == .error) (by decide +kernel), rfl, fun w hw n => ?_⟩
  have h : (failed 3#4 0x70000000#32).acceptedWord = some 0x70000000#32 := by decide +kernel
  cases h.symm.trans hw
  rw [show decode 0x70000000#32 = .error .reservedOpcode by decide]
  exact fun h => nomatch h
theorem witness_QueriesAndStartAreIdempotent :
    (∃ t u, exec .status (offering 0#32) = .next t ∧ exec .status t = .next u) ∧
      ∃ t, exec (.start 3#28) (offering 0#32) = .next t := ⟨⟨_, _, rfl, rfl⟩, ⟨_, rfl⟩⟩
theorem witness_ChecksumOnlyForExactLength :
    ∃ t, exec .finish (active 4#28 4#28 0x5FB0A94F#32 0#32) = .next t ∧
      t.rspq = (active 4#28 4#28 0x5FB0A94F#32 0#32).rspq ++ [⟨.crc, 0x5FB0A94F#32⟩] := ⟨_, rfl, rfl⟩
theorem witness_ChecksumIsLinear : [0x4F#8, 0x67#8].length = [0x31#8, 0x32#8].length := rfl
theorem witness_SingleBitChangeChangesChecksum : 3 < [0x4F#8, 0x67#8, 0x67#8, 0x53#8].length ∧ 7 < 8 := by decide
theorem witness_TurnIsScheduledOrFree :
    (offering 0#32).schedule = .eng :: [] ∧ State.reset.schedule = [] := ⟨rfl, rfl⟩
theorem witness_GenStepWritesNextEntry :
    (∀ s, s = { State.reset with schedule := [.gen], gidx := 255#9 } →
        s.nextMove = .gen ∧ s.resetDone = true ∧ s.gidx.toNat < 256) ∧
      (∀ s, s = { State.reset with schedule := [.gen], gidx := 256#9 } →
        s.nextMove = .gen ∧ s.resetDone = true ∧ 256 ≤ s.gidx.toNat) := by
  refine ⟨fun _ h => h ▸ ⟨rfl, rfl, by decide⟩, fun _ h => h ▸ ⟨rfl, rfl, by decide⟩⟩
theorem witness_BuildCompletesInRemainingSteps :
    (∀ s, s = { offering 0#32 with schedule := [] } →
        s.Inv ∧ s.resetDone = true ∧ s.schedule = List.replicate (256 - s.gidx.toNat) .gen ++ []) ∧
      ∀ s, s = { State.reset with schedule := List.replicate 256 .gen } →
        s.Inv ∧ s.resetDone = true ∧ s.schedule = List.replicate (256 - s.gidx.toNat) .gen ++ [] := by
  refine ⟨fun _ h => h ▸ ⟨?_, rfl, rfl⟩, fun _ h => h ▸ ⟨?_, rfl, (List.append_nil _).symm⟩⟩
  · have h := offering_inv 0#32
    exact ⟨h.1, h.2, h.3, h.4, h.5, h.6, h.7, h.8, h.9, h.10, h.11⟩
  · have h := reset_gen_inv
    exact ⟨h.1, h.2, h.3, h.4, h.5, h.6, h.7, h.8, h.9, h.10, h.11⟩
theorem witness_TableWrittenOnlyByGenAndReset :
    (∃ t, step { State.reset with schedule := [.gen] } = .next t ∧ decide (t.tbl ≠ []) = true) ∧
      ∃ t, step { State.reset with schedule := [.reset], tbl := [(0, 0#32)] } = .next t ∧
        decide (t.tbl ≠ [(0, 0#32)]) = true :=
  ⟨exists_next (by decide +kernel), exists_next (by decide +kernel)⟩
theorem witness_StepRunsDecodedCommand :
    (offering 0x1FFFFFFF#32).nextMove = .eng ∧ (offering 0x1FFFFFFF#32).resetDone = true ∧
      (offering 0x1FFFFFFF#32).offered = some 0x1FFFFFFF#32 ∧ (offering 0x1FFFFFFF#32).cmdReady false = true ∧
      decode 0x1FFFFFFF#32 = .ok (.start 0x0FFFFFFF#28) := ⟨rfl, rfl, rfl, by decide +kernel, by decide⟩
theorem witness_AcceptedIllegalWordRaises :
    ∀ s, s = offering 0x60000001#32 ∨ s = failed 2#4 0x60000001#32 →
      s.nextMove = .eng ∧ s.resetDone = true ∧ s.offered = some 0x60000001#32 ∧ s.cmdReady false = true ∧
        decode 0x60000001#32 = .error .reservedField := by
  rintro s (rfl | rfl) <;> exact ⟨rfl, rfl, rfl, by decide +kernel, by decide⟩
theorem witness_EngHoldsUnlessReady :
    ∀ s, s = { offering 0#32 with trdy := false } ∨ s = full 0#32 ∨ s = { offering 0#32 with pos := 1 } →
      s.nextMove = .eng ∧ s.resetDone = true ∧
        (s.trdy = false ∨ Config.rspDepth ≤ s.rspq.length ∨ s.program.length ≤ s.pos) := by
  rintro s (rfl | rfl | rfl)
  · exact ⟨rfl, rfl, .inl rfl⟩
  · exact ⟨rfl, rfl, .inr (.inl (by simp [full]))⟩
  · exact ⟨rfl, rfl, .inr (.inr (by decide))⟩
theorem witness_PopTakesHeadRecord :
    (∀ s, s = { offering 0#32 with schedule := [.pop], rspq := [⟨.crc, 1#32⟩, ⟨.data, 2#32⟩] } →
        s.nextMove = .pop ∧ s.resetDone = true ∧ s.rspq = ⟨.crc, 1#32⟩ :: [⟨.data, 2#32⟩] ∧ s.rspq ≠ []) ∧
      ∀ s, s = { offering 0#32 with schedule := [.pop] } → s.nextMove = .pop ∧ s.resetDone = true ∧ s.rspq = [] :=
  ⟨fun _ h => h ▸ ⟨rfl, rfl, rfl, by decide⟩, fun _ h => h ▸ ⟨rfl, rfl, rfl⟩⟩
theorem witness_ResetWritesEveryElement :
    State.nextMove { active 4#28 2#28 7#32 0#32 with schedule := [.reset] } = .reset := rfl
theorem witness_NoMeaningBeforeFirstReset :
    (∀ s, s = { State.reset with resetDone := false, schedule := [.gen] } →
        s.resetDone = false ∧ s.nextMove ≠ .reset) ∧
      ∀ s, s = { State.reset with resetDone := false, schedule := [.reset] } →
        s.resetDone = false ∧ s.nextMove = .reset :=
  ⟨fun _ h => h ▸ ⟨rfl, by decide⟩, fun _ h => h ▸ ⟨rfl, rfl⟩⟩
theorem witness_PositionAdvancesOnAcceptOnly :
    (∃ t, step (offering 0x50000000#32) = .next t ∧ (t.pos == 1) = true) ∧
      (offering 0x50000000#32).acceptedWord ≠ none ∧
      (∃ t, step { State.reset with schedule := [.gen] } = .next t ∧ (t.pos == 0) = true) ∧
      State.acceptedWord { State.reset with schedule := [.gen] } = none :=
  ⟨exists_next (p := fun t => t.pos == 1) (by decide +kernel), by decide +kernel,
    exists_next (p := fun t => t.pos == 0) (by decide +kernel), by decide +kernel⟩
theorem witness_RecordsLeaveInPushOrder :
    (∃ t, step (offering 0x50000000#32) = .next t ∧ (t.rspq == [⟨.data, 4#32⟩]) = true) ∧
      (offering 0x50000000#32).nextMove ≠ .reset :=
  ⟨exists_next (p := fun t => t.rspq == [⟨.data, 4#32⟩]) (by decide +kernel), by decide⟩
theorem witness_EveryStepKeepsTheInvariant :
    (offering 0x30000000#32).Inv ∧ (∃ t, step (offering 0x30000000#32) = .next t ∧ (t.pos == 1) = true) ∧
      State.Inv { State.reset with schedule := [.gen] } ∧
      ∃ t, step { State.reset with schedule := [.gen] } = .next t ∧ (t.gidx == 1#9) = true :=
  ⟨offering_inv _, exists_next (p := fun t => t.pos == 1) (by decide +kernel), reset_gen_inv,
    exists_next (p := fun t => t.gidx == 1#9) (by decide +kernel)⟩
theorem witness_AccumulatorIsChecksumOfAcceptedBytes :
    (active 2#28 1#28 0x0CC9CDCA#32 0x20000067#32).Inv ∧
      (active 2#28 1#28 0x0CC9CDCA#32 0x20000067#32).TracksBytes [0x4F#8] ∧
      ∃ t, step (active 2#28 1#28 0x0CC9CDCA#32 0x20000067#32) = .next t ∧ (t.acc == 0x4E23C7F6#32) = true :=
  ⟨active_inv _ _ (by decide), ⟨rfl, by decide +kernel⟩,
    exists_next (p := fun t => t.acc == 0x4E23C7F6#32) (by decide +kernel)⟩
theorem witness_NoStepFaultsUnderTheInvariant : (offering 0x400000FF#32).Inv := offering_inv _
theorem witness_WellFormedSessionReturnsChecksum :
    (∀ s, s = { offering 0#32 with
              program := (sessionCommands [0x4F#8]).map encode, schedule := List.replicate 3 .eng } →
        s.Inv ∧ s.resetDone = true ∧ s.cmdReady false = true ∧ [0x4F#8].length < 2 ^ 28 ∧
          s.program.drop s.pos = (sessionCommands [0x4F#8]).map encode ++ [] ∧
          s.schedule = List.replicate ([0x4F#8].length + 2) .eng ++ []) ∧
      ((active 3#28 1#28 0#32 0#32).sst = .active ∧ (active 3#28 1#28 0#32 0#32).cnt ≠ (active 3#28 1#28 0#32 0#32).len) ∧
      (failed 1#4 0#32).sst = .error := by
  refine ⟨fun _ h => h ▸ ⟨?_, rfl, by decide +kernel, by decide, rfl, rfl⟩, by decide, rfl⟩
  have h := offering_inv 0#32
  exact ⟨h.1, h.2, h.3, h.4, h.5, h.6, h.7, h.8, h.9, h.10, Nat.zero_le _⟩

/-! ### Witnesses for the statements about runs -/

/-- The three agents in turn, for ever. -/
def allInTurn (n : Nat) : Move := if n % 3 = 0 then .gen else if n % 3 = 1 then .eng else .pop

/-- GEN and ENG in turn, for ever: a host that never pops. -/
def neverPops (n : Nat) : Move := if n % 2 = 0 then .gen else .eng

/-- GEN's 256 steps, two turns of ENG, then pops: enough for a session of no bytes. -/
def emptySession (n : Nat) : Move := if n < 256 then .gen else if n < 258 then .eng else .pop

/-- An agent with a turn after every point is treated fairly. -/
theorem weaklyFair_of {turns : Nat → Move} {m : Move} (h : ∀ n, ∃ k, n ≤ k ∧ turns k = m) (program : List Word) :
    WeaklyFair program turns m := fun n _ => h n

/-- A host that never pops the record of a STATUS hangs (R246). -/
theorem neverPops_hangs : RunGives [0x50000000#32] neverPops .hang := by
  let p (s : State) : Prop :=
    s.resetDone = true ∧ s.program = [0x50000000#32] ∧ (s.pos = 0 ∨ s.pos = 1 ∧ s.rspq ≠ [])
  have hstep : ∀ n s, p s → ∃ t, step (s.withTurn (neverPops n)) = .next t ∧ p t := by
    rintro n s ⟨hr, hp, hq⟩
    by_cases hn : n % 2 = 0
    · exact ⟨_, by simpa [neverPops, hn] using step_withTurn_gen hr, by simpa [p] using ⟨hr, hp, hq⟩⟩
    rw [show neverPops n = .eng by simp [neverPops, hn], step_withTurn_eng hr]
    by_cases he : State.engEnabled { s with schedule := [] } = true
    · obtain ⟨w, hw, hc⟩ := (engEnabled_iff _).1 he
      have hz : s.pos = 0 := by
        rcases hq with hq | hq
        · exact hq
        · simp [State.offered, hp, hq.1] at hw
      obtain rfl : w = 0x50000000#32 := by simpa [State.offered, hp, hz] using hw.symm
      refine ⟨_, by simp only [engTurn, hw, hc, if_true]; exact perform_of_ok (i := .status) (by decide) _, ?_⟩
      simp [p, hr, hp, hz]
    · exact ⟨_, engTurn_of_not_enabled (by simpa using he), hr, hp, hq⟩
  intro n
  obtain ⟨s, h, -, hp, hq⟩ := runFrom_induction (start := State.launch [0x50000000#32]) ⟨rfl, rfl, .inl rfl⟩ hstep n
  refine ⟨s, h, fun ⟨hl, _, he⟩ => ?_⟩
  rcases hq with hq | hq
  · rw [hp, hq] at hl; exact absurd hl (by decide)
  · exact hq.2 he

/-- GEN's turns build the table and leave the rest as launched. -/
theorem emptySession_build (program : List Word) (n : Nat) (hn : n ≤ 256) : ∃ s,
    runAfter program emptySession n = .next s ∧ s.gidx.toNat = n ∧ (s.trdy = true ↔ n = 256) ∧
      s = { State.launch program with tbl := s.tbl, gidx := s.gidx, trdy := s.trdy } := by
  induction n with
  | zero => exact ⟨_, rfl, rfl, ⟨(nomatch ·), (nomatch ·)⟩, rfl⟩
  | succ n ih =>
    obtain ⟨s, h, hg, ht, he⟩ := ih (by omega)
    have hen : s.genEnabled = true := decide_eq_true (by rw [hg]; exact hn)
    have hadd : (s.gidx + 1#9).toNat = n + 1 := by rw [BitVec.toNat_add, hg]; exact Nat.mod_eq_of_lt (by simp; omega)
    refine ⟨s.genWrite, ?_, hadd, ?_, ?_⟩
    · rw [runAfter_succ h, show emptySession n = .gen from if_pos hn, step_withTurn_gen (by rw [he]; rfl),
        show ({ s with schedule := [] } : State) = s by rw [he]; rfl, State.genTurn, if_pos hen]
    · rw [State.genWrite_trdy]
      split
      next h256 => rw [h256] at hadd; simpa using hadd
      next h256 =>
        rw [ht]
        constructor
        · intro h; omega
        · intro h; exact absurd (BitVec.eq_of_toNat_eq (y := 256#9) (hadd.trans h)) h256
    · rw [State.genWrite, he]

/-- A session of no bytes reaches its end: START 0, FINISH, and one record popped. -/
theorem emptySession_ends : ∃ records final,
    RunGives ((sessionCommands []).map encode) emptySession (.ended records final) := by
  obtain ⟨s, h, hg, ht, he⟩ := emptySession_build ((sessionCommands []).map encode) 256 (Nat.le_refl _)
  have ht := ht.2 rfl
  have hs : s = { State.launch ((sessionCommands []).map encode) with tbl := s.tbl, gidx := s.gidx, trdy := true } := by
    rw [← ht]; exact he
  generalize s.tbl = tbl at hs
  obtain ⟨g, hg'⟩ : ∃ g, g = s.gidx := ⟨_, rfl⟩
  rw [← hg'] at hs hg
  subst hs
  have h1 := (runAfter_succ h).trans (step_withTurn_eng rfl)
  have h2 := (runAfter_succ (h1.trans rfl)).trans (step_withTurn_eng rfl)
  have h3 := (runAfter_succ (h2.trans rfl)).trans (step_withTurn_pop rfl)
  exact ⟨_, _, 259, _, h3, ⟨rfl, hg, rfl⟩, rfl⟩

theorem emptySession_noReset : NoResetAfterStart emptySession := by
  intro n; unfold emptySession; split
  · decide
  · split <;> decide
theorem allInTurn_noReset : NoResetAfterStart allInTurn := by
  intro n; unfold allInTurn; split
  · decide
  · split <;> decide
theorem witness_EveryFairRunEnds :
    (NoResetAfterStart allInTurn ∧ WeaklyFair [0x50000000#32] allInTurn .gen ∧
        WeaklyFair [0x50000000#32] allInTurn .eng ∧ WeaklyFair [0x50000000#32] allInTurn .pop ∧
        HostPopsEveryRecord [0x50000000#32] allInTurn) ∧
      (NoResetAfterStart neverPops ∧ WeaklyFair [0x50000000#32] neverPops .gen ∧
        WeaklyFair [0x50000000#32] neverPops .eng ∧ RunGives [0x50000000#32] neverPops .hang) := by
  have hpop : ∀ n, ∃ k, n ≤ k ∧ allInTurn k = .pop := fun n => ⟨3 * n + 2, by omega, by simp [allInTurn]⟩
  refine ⟨⟨allInTurn_noReset, weaklyFair_of (fun n => ⟨3 * n, by omega, by simp [allInTurn]⟩) _,
      weaklyFair_of (fun n => ⟨3 * n + 1, by omega, by simp [allInTurn]⟩) _, weaklyFair_of hpop _,
      fun n _ _ _ => hpop n⟩,
    ⟨fun n => ?_, weaklyFair_of (fun n => ⟨2 * n, by omega, by simp [neverPops]⟩) _,
      weaklyFair_of (fun n => ⟨2 * n + 1, by omega, by simp [neverPops]⟩) _, neverPops_hangs⟩⟩
  unfold neverPops; split <;> decide
theorem witness_EveryRunEndsOrHangs : NoResetAfterStart allInTurn := allInTurn_noReset
theorem witness_WaitingHostHangs :
    ((full 0#32).resetDone = true ∧ Config.rspDepth ≤ (full 0#32).rspq.length ∧
        ∀ n, neverPops n = .gen ∨ neverPops n = .eng) ∧
      ((offering 0#32).resetDone = true ∧ (offering 0#32).rspq = [] ∧
        (∀ n : Nat, (fun _ => Move.pop) n = .gen ∨ (fun _ => Move.pop) n = .pop) ∧ (offering 0#32).pos < (offering 0#32).program.length) := by
  refine ⟨⟨rfl, by simp [full], fun n => ?_⟩, rfl, rfl, fun _ => .inr rfl, by decide⟩
  unfold neverPops; split
  · exact .inl rfl
  · exact .inr rfl
theorem witness_HoldIsLiftedByGenOrPop :
    (∀ s, s = full 0#32 → s.engHolds = true ∧ s.resetDone = true ∧ s.nextMove = .eng) ∧
      (∀ s, s = { full 0#32 with schedule := [.pop] } →
        s.engHolds = true ∧ s.resetDone = true ∧ s.nextMove = .pop ∧ s.trdy = true ∧
          s.rspq.length = Config.rspDepth ∧ ∃ t, step s = .next t ∧ t.engHolds = false) ∧
      ∀ s, s = { State.reset with program := [0#32], gidx := 255#9, schedule := [.gen] } →
        s.engHolds = true ∧ s.resetDone = true ∧ s.nextMove = .gen ∧ s.gidx.toNat = 255 ∧
          s.rspq.length < Config.rspDepth ∧ ∃ t, step s = .next t ∧ t.engHolds = false := by
  have hf : (full 0#32).engHolds = true := by simp [State.engHolds, full, offering, State.offered, State.cmdReady, State.reset]
  refine ⟨fun _ h => h ▸ ⟨hf, rfl, rfl⟩, fun _ h => h ▸ ⟨hf, rfl, rfl, rfl, by simp [full], _, step_of_pop rfl rfl, ?_⟩,
    fun _ h => h ▸ ⟨rfl, rfl, rfl, rfl, Nat.succ_pos _, _, step_of_gen rfl rfl, by decide +kernel⟩⟩
  have hd : Config.rspDepth = Config.rspDepthPred + 1 := rfl
  simp [State.engHolds, full, offering, State.cmdReady, State.takeMove, State.popHead, hd, List.replicate_succ]
theorem witness_EndedRunsOfOneProgramAgree :
    NoResetAfterStart emptySession ∧ ∃ records final,
      RunGives ((sessionCommands []).map encode) emptySession (.ended records final) :=
  ⟨emptySession_noReset, emptySession_ends⟩
theorem witness_EndedSessionRunReturnsChecksum :
    ([] : List Byte).length < 2 ^ 28 ∧ NoResetAfterStart emptySession ∧ ∃ records final,
      RunGives ((sessionCommands []).map encode) emptySession (.ended records final) :=
  ⟨by decide, emptySession_noReset, emptySession_ends⟩

end Sys2Proof.Tests
end

section
/-! The turn a step takes, an equation per shape of the schedule (00_scope.md R15, log 1), and O34 from these. -/

namespace Sys2Proof.Machine

/-- Where a turn is settled, it is the next one. -/
theorem State.nextMove_of_schedule_cons {s : State} {m : Move} {ms : List Move} (h : s.schedule = m :: ms) :
    s.nextMove = m := by
  simp [State.nextMove, h]

/-- Where no turn is settled, the next one is the free value of log 1. -/
theorem State.nextMove_of_schedule_nil {s : State} (h : s.schedule = []) : s.nextMove = Config.freeMove s.turn := by
  simp [State.nextMove, h]

/-- Using up a settled turn shortens the schedule and leaves the count of free turns. -/
theorem State.takeMove_of_schedule_cons {s : State} {m : Move} {ms : List Move} (h : s.schedule = m :: ms) :
    s.takeMove = { s with schedule := ms } := by
  simp [State.takeMove, h]

/-- Using up a free turn counts it and leaves the schedule empty. -/
theorem State.takeMove_of_schedule_nil {s : State} (h : s.schedule = []) :
    s.takeMove = { s with turn := s.turn + 1 } := by
  simp [State.takeMove, h]

/-- Settles O34: a settled turn and a free one, each by its two equations. The free value stays opaque throughout. -/
theorem turnIsScheduledOrFree : Obligations.TurnIsScheduledOrFree :=
  ⟨fun _ _ _ h => ⟨State.nextMove_of_schedule_cons h, State.takeMove_of_schedule_cons h⟩,
    fun _ h => ⟨State.nextMove_of_schedule_nil h, State.takeMove_of_schedule_nil h⟩⟩

end Sys2Proof.Machine
end

section
/-! Who writes what (10_state.md R20): what no command writes, and which commands push; O18 and O19 from these. -/

namespace Sys2Proof.Machine

/-! ### The table, the generator and the host's side -/

/-- `t` has the table, the generator's state, the host's side, the turns and the reset mark of `s` (R20, R103). -/
structure State.SameTableAndHost (s t : State) : Prop where
  tbl : t.tbl = s.tbl
  gidx : t.gidx = s.gidx
  trdy : t.trdy = s.trdy
  program : t.program = s.program
  pos : t.pos = s.pos
  popped : t.popped = s.popped
  schedule : t.schedule = s.schedule
  turn : t.turn = s.turn
  resetDone : t.resetDone = s.resetDone

namespace State.SameTableAndHost

theorem refl (s : State) : s.SameTableAndHost s := by constructor <;> rfl

theorem push (s : State) (tag : Tag) (data : Word) : s.SameTableAndHost (s.push tag data) := by constructor <;> rfl

theorem openSession (s : State) (len : Count) : s.SameTableAndHost (s.openSession len) := by constructor <;> rfl

theorem accumulate (s : State) (acc : Word) : s.SameTableAndHost (s.accumulate acc) := by constructor <;> rfl

theorem push_clearSession (s : State) (tag : Tag) (data : Word) :
    s.SameTableAndHost (s.push tag data).clearSession := by constructor <;> rfl

theorem raiseErr (s : State) (c : ErrCode) : s.SameTableAndHost (s.raiseErr c) := by constructor <;> simp

/-- The read of an entry is a function of the table alone. -/
theorem tblRead {s t : State} (h : s.SameTableAndHost t) (k : Byte) : t.tblRead k = s.tblRead k := by
  simp [State.tblRead, h.tbl]

end State.SameTableAndHost

theorem execByte_sameTableAndHost {b : Byte} {s t : State} (h : execByte b s = .next t) : s.SameTableAndHost t := by
  rcases execByte_cases h with ⟨-, rfl⟩ | ⟨-, rfl⟩ | ⟨-, -, rfl⟩ | ⟨-, -, v, -, rfl⟩
  · exact .raiseErr s _
  · exact .refl _
  · exact .raiseErr s _
  · exact .accumulate s _

theorem exec_sameTableAndHost {i : Instr} {s t : State} (h : exec i s = .next t) : s.SameTableAndHost t := by
  rcases exec_cases h with ⟨-, rfl⟩ | ⟨len, -, rfl⟩ | ⟨b, -, hb⟩ | ⟨-, rfl⟩ | ⟨k, -, v, -, rfl⟩ | ⟨-, rfl⟩ | ⟨-, rfl⟩
  · exact .refl _
  · exact .openSession s len
  · exact execByte_sameTableAndHost hb
  · exact .push_clearSession s _ _
  · exact .push s _ _
  · exact .push s _ _
  · exact .push s _ _

/-- Everything the performance of a word that answers a next state can have done: its command, or the error entry (R79). -/
theorem perform_cases {w : Word} {s t : State} (h : perform w s = .next t) :
    (∃ i, decode w = .ok i ∧ exec i s = .next t) ∨ (∃ e, decode w = .error e ∧ t = s.raiseErr .illegalCmd) := by
  cases hd : decode w with
  | ok i => exact .inl ⟨i, rfl, (perform_of_ok hd s).symm.trans h⟩
  | error e =>
    cases (perform_of_illegal hd s).symm.trans h
    exact .inr ⟨e, rfl, rfl⟩

theorem perform_sameTableAndHost {w : Word} {s t : State} (h : perform w s = .next t) : s.SameTableAndHost t := by
  rcases perform_cases h with ⟨i, -, hx⟩ | ⟨e, -, rfl⟩
  · exact exec_sameTableAndHost hx
  · exact .raiseErr s _

/-- Settles O18, field by field from `exec_sameTableAndHost`. -/
theorem commandsLeaveTableAndHost : Obligations.CommandsLeaveTableAndHost := by
  intro i s t h
  have hf := exec_sameTableAndHost h
  exact ⟨hf.tbl, hf.gidx, hf.trdy, hf.program, hf.pos, hf.popped, hf.schedule, hf.turn, hf.resetDone, hf.tblRead⟩

/-! ### The response queue -/

/-- BYTE pushes nothing, whatever its case. -/
theorem execByte_rspq {b : Byte} {s t : State} (h : execByte b s = .next t) : t.rspq = s.rspq := by
  rcases execByte_cases h with ⟨-, rfl⟩ | ⟨-, rfl⟩ | ⟨-, -, rfl⟩ | ⟨-, -, v, -, rfl⟩ <;> simp

theorem exec_rspq_of_nop_start_byte {i : Instr} {s t : State} (h : exec i s = .next t)
    (hi : i = .nop ∨ (∃ n, i = .start n) ∨ ∃ b, i = .byte b) : t.rspq = s.rspq := by
  rcases hi with rfl | ⟨n, rfl⟩ | ⟨b, rfl⟩
  · cases h; rfl
  · cases h; rfl
  · exact execByte_rspq h

/-- A query is a push of one DATA record and nothing else (R63). -/
theorem exec_of_query {i : Instr} {s t : State} (h : exec i s = .next t)
    (hi : (∃ k, i = .tread k) ∨ i = .status ∨ i = .remain) : ∃ d, t = s.push .data d := by
  rcases hi with ⟨k, rfl⟩ | rfl | rfl
  · obtain ⟨v, -, rfl⟩ := execTread_cases h
    exact ⟨v, rfl⟩
  · cases h; exact ⟨_, rfl⟩
  · cases h; exact ⟨_, rfl⟩

theorem exec_rspq_of_finish_query {i : Instr} {s t : State} (h : exec i s = .next t)
    (hi : i = .finish ∨ (∃ k, i = .tread k) ∨ i = .status ∨ i = .remain) : ∃ r, t.rspq = s.rspq ++ [r] := by
  rcases hi with rfl | hq
  · cases h; exact ⟨_, rfl⟩
  · obtain ⟨d, rfl⟩ := exec_of_query h hq
    exact ⟨_, rfl⟩

/-- Settles O19: the commands that push, those that do not, and the queries, each by its lemma. -/
theorem onlyFinishAndQueriesPush : Obligations.OnlyFinishAndQueriesPush := by
  intro i s t h
  refine ⟨exec_rspq_of_finish_query h, exec_rspq_of_nop_start_byte h, fun hq => ?_⟩
  obtain ⟨d, rfl⟩ := exec_of_query h hq
  rfl

/-- No command pushes more than one record: the slot that R53 reserves is enough. -/
theorem exec_rspq_cases {i : Instr} {s t : State} (h : exec i s = .next t) :
    t.rspq = s.rspq ∨ ∃ r, t.rspq = s.rspq ++ [r] := by
  cases i with
  | nop | start | byte => exact .inl (exec_rspq_of_nop_start_byte h (by simp))
  | finish | tread | status | remain => exact .inr (exec_rspq_of_finish_query h (by simp))

/-- An accepted word leaves the queue or pushes one record; an ILLEGAL one leaves it. -/
theorem perform_rspq_cases {w : Word} {s t : State} (h : perform w s = .next t) :
    t.rspq = s.rspq ∨ ∃ r, t.rspq = s.rspq ++ [r] := by
  rcases perform_cases h with ⟨i, -, hx⟩ | ⟨e, -, rfl⟩
  · exact exec_rspq_cases hx
  · exact .inl (s.raiseErr_rspq _)

end Sys2Proof.Machine
end

section
/-! What a step does by whether it accepts a word (10_state.md R31, 20_memory.md R53); O44 from it. -/

namespace Sys2Proof.Machine

/-- A step accepts a word and performs it on the state with the turn used up and the position one further, or it accepts
none and is GEN's turn, a hold, HOST's pop or a reset. -/
theorem step_cases_acceptedWord {s t : State} (h : step s = .next t) :
    (∃ w, s.acceptedWord = some w ∧ s.nextMove ≠ .reset ∧ s.offered = some w ∧ s.cmdReady false = true ∧
        perform w s.takeMove.advancePos = .next t) ∨
      (s.acceptedWord = none ∧
        (s.nextMove ≠ .reset ∧
            (t = s.takeMove.genTurn ∨ t = s.takeMove ∨ t = s.takeMove.popHead) ∨
          s.nextMove = .reset ∧ t = s.takeMove.resetBlock)) := by
  rcases step_cases h with ⟨hm, -, ht⟩ | ⟨hm, hr, w, hw, hc, hp⟩ | ⟨hm, -, hn, ht⟩ | ⟨hm, -, ht⟩ | ⟨hm, ht⟩
  · exact .inr ⟨acceptedWord_none (by simp [hm]), .inl ⟨by simp [hm], .inl ht⟩⟩
  · exact .inl ⟨w, acceptedWord_of hm hr hw hc, by simp [hm], hw, hc, hp⟩
  · exact .inr ⟨acceptedWord_none (.inr hn), .inl ⟨by simp [hm], .inr (.inl ht)⟩⟩
  · exact .inr ⟨acceptedWord_none (by simp [hm]), .inl ⟨by simp [hm], .inr (.inr ht)⟩⟩
  · exact .inr ⟨acceptedWord_none (by simp [hm]), .inr ⟨hm, ht⟩⟩

/-- Settles O44: the position moves before the accepted word is performed, no command moves it, and no other step does. -/
theorem positionAdvancesOnAcceptOnly : Obligations.PositionAdvancesOnAcceptOnly := by
  intro s t h
  rcases step_cases_acceptedWord h with ⟨w, ha, -, -, -, hp⟩ | ⟨ha, ⟨-, rfl | rfl | rfl⟩ | ⟨-, rfl⟩⟩
  · have hf := perform_sameTableAndHost hp
    simp [ha, hf.pos, hf.program]
  all_goals simp [ha]

end Sys2Proof.Machine
end

section
/-! The invariant of R34 in the parts that different agents write: the session (ENG), the table (GEN), the queue's room and
the host's position. -/

namespace Sys2Proof.Machine

/-- R34 items 1 to 4: the part of the invariant about the session's registers, which only ENG and reset write. -/
structure State.SessionInv (s : State) : Prop where
  cntLe : s.cnt.toNat ≤ s.len.toNat
  idleClear : s.sst = .idle → s.acc = 0#32 ∧ s.len = 0#28 ∧ s.cnt = 0#28 ∧ s.err = 0#4
  activeNoErr : s.sst = .active → s.err = 0#4
  errorCode : s.sst = .error → s.err = 1#4 ∨ s.err = 2#4 ∨ s.err = 3#4

/-- R34 items 5 and 6 with the table's canonical form: the part of the invariant that only GEN and reset write. -/
structure State.TableInv (s : State) : Prop where
  tblWf : Table.wf s.tbl
  gidxLe : s.gidx.toNat ≤ Config.nTbl
  readyIff : s.trdy = true ↔ s.gidx.toNat = Config.nTbl
  written : ∀ i : Byte, i.toNat < s.gidx.toNat → s.tblRead i = some (genEntry i)
  unwritten : ∀ i : Byte, s.gidx.toNat ≤ i.toNat → s.tblRead i = none

theorem State.inv_iff (s : State) :
    s.Inv ↔ s.SessionInv ∧ s.TableInv ∧ s.rspq.length ≤ Config.rspDepth ∧ s.pos ≤ s.program.length := by
  constructor
  · rintro ⟨htw, hg, hc, hi, ha, he, hr, hw, hu, hq, hp⟩
    exact ⟨⟨hc, hi, ha, he⟩, ⟨htw, hg, hr, hw, hu⟩, hq, hp⟩
  · rintro ⟨⟨hc, hi, ha, he⟩, ⟨htw, hg, hr, hw, hu⟩, hq, hp⟩
    exact ⟨htw, hg, hc, hi, ha, he, hr, hw, hu, hq, hp⟩

/-! ### The session's part -/

/-- The session's part speaks of five registers only; that an update leaves them is a `simp` fact of the state. -/
theorem State.SessionInv.of_eq {s t : State} (h : s.SessionInv) (hacc : t.acc = s.acc := by simp)
    (hlen : t.len = s.len := by simp) (hcnt : t.cnt = s.cnt := by simp) (hsst : t.sst = s.sst := by simp)
    (herr : t.err = s.err := by simp) : t.SessionInv := by
  obtain ⟨hc, hi, ha, he⟩ := h
  constructor
  · rwa [hcnt, hlen]
  · rwa [hsst, hacc, hlen, hcnt, herr]
  · rwa [hsst, herr]
  · rwa [hsst, herr]

/-- An error raised keeps the session's part, unless it is UNDERRUN, which FINISH reports and never raises (R25). -/
theorem State.SessionInv.raiseErr {s : State} (h : s.SessionInv) {c : ErrCode} (hc : c ≠ .underrun) :
    (s.raiseErr c).SessionInv where
  cntLe := by simpa using h.cntLe
  idleClear hi := by simp at hi
  activeNoErr ha := by simp at ha
  errorCode _ := by
    rw [State.raiseErr_err]
    split
    next hs => exact h.errorCode hs
    next => cases c <;> simp [ErrCode.code] at hc ⊢

theorem State.openSession_sessionInv (s : State) (len : Count) : (s.openSession len).SessionInv where
  cntLe := Nat.zero_le _
  idleClear hi := by simp at hi
  activeNoErr _ := rfl
  errorCode he := by simp at he

theorem State.clearSession_sessionInv (s : State) : s.clearSession.SessionInv where
  cntLe := Nat.le_refl _
  idleClear _ := ⟨rfl, rfl, rfl, rfl⟩
  activeNoErr ha := by simp at ha
  errorCode he := by simp at he

/-- `CNT` counts on only below `LEN`, so it stays at most `LEN` (R23). -/
theorem State.SessionInv.cnt_lt_len {s : State} (h : s.SessionInv) (hc : s.cnt ≠ s.len) :
    s.cnt.toNat < s.len.toNat :=
  Nat.lt_of_le_of_ne h.cntLe fun he => hc (BitVec.eq_of_toNat_eq he)

theorem State.SessionInv.toNat_cntPlusOne {s : State} (h : s.SessionInv) (hc : s.cnt ≠ s.len) :
    (cntPlusOne s.cnt s.len).toNat = s.cnt.toNat + 1 := by
  obtain ⟨he, hn⟩ := cntPlusOne_of_lt (h.cnt_lt_len hc) s.len
  rw [he, hn]

theorem State.SessionInv.accumulate {s : State} (h : s.SessionInv) (ha : s.sst = .active) (hc : s.cnt ≠ s.len)
    (acc : Word) : (s.accumulate acc).SessionInv where
  cntLe := by
    have hlt := h.cnt_lt_len hc
    rw [State.accumulate_cnt, State.accumulate_len, h.toNat_cntPlusOne hc]
    exact hlt
  idleClear hi := by simp [ha] at hi
  activeNoErr _ := h.activeNoErr ha
  errorCode he := by simp [ha] at he

theorem execByte_sessionInv {b : Byte} {s t : State} (hs : s.SessionInv) (h : execByte b s = .next t) :
    t.SessionInv := by
  rcases execByte_cases h with ⟨-, rfl⟩ | ⟨-, rfl⟩ | ⟨-, -, rfl⟩ | ⟨ha, hc, v, -, rfl⟩
  · exact hs.raiseErr (by decide)
  · exact hs
  · exact hs.raiseErr (by decide)
  · exact hs.accumulate ha hc _

theorem exec_sessionInv {i : Instr} {s t : State} (hs : s.SessionInv) (h : exec i s = .next t) : t.SessionInv := by
  have hpush (tag : Tag) (d : Word) : (s.push tag d).SessionInv := hs.of_eq
  rcases exec_cases h with ⟨-, rfl⟩ | ⟨len, -, rfl⟩ | ⟨b, -, hb⟩ | ⟨-, rfl⟩ | ⟨k, -, v, -, rfl⟩ | ⟨-, rfl⟩ | ⟨-, rfl⟩
  · exact hs
  · exact s.openSession_sessionInv len
  · exact execByte_sessionInv hs hb
  · exact State.clearSession_sessionInv _
  · exact hpush _ _
  · exact hpush _ _
  · exact hpush _ _

theorem perform_sessionInv {w : Word} {s t : State} (hs : s.SessionInv) (h : perform w s = .next t) :
    t.SessionInv := by
  rcases perform_cases h with ⟨i, -, hx⟩ | ⟨e, -, rfl⟩
  · exact exec_sessionInv hs hx
  · exact hs.raiseErr (by decide)

/-! ### The table's part -/

/-- The table's part speaks of `TBL`, `GIDX` and `TRDY` only. -/
theorem State.TableInv.of_eq {s t : State} (h : s.TableInv) (htbl : t.tbl = s.tbl := by simp)
    (hgidx : t.gidx = s.gidx := by simp) (htrdy : t.trdy = s.trdy := by simp) : t.TableInv := by
  obtain ⟨hwf, hg, hr, hw, hu⟩ := h
  constructor
  · rwa [htbl]
  · rwa [hgidx]
  · rwa [htrdy, hgidx]
  · simpa [State.tblRead, htbl, hgidx] using hw
  · simpa [State.tblRead, htbl, hgidx] using hu

theorem State.SameTableAndHost.tableInv {s t : State} (h : s.SameTableAndHost t) (hs : s.TableInv) : t.TableInv :=
  hs.of_eq h.tbl h.gidx h.trdy

/-- A written entry is never anything but `GenEntry` of its index (R105). -/
theorem State.TableInv.eq_genEntry_of_tblRead {s : State} (h : s.TableInv) {i : Byte} {v : Word}
    (hv : s.tblRead i = some v) : v = genEntry i := by
  rcases Nat.lt_or_ge i.toNat s.gidx.toNat with hi | hi
  · exact Option.some.inj (hv.symm.trans (h.written i hi))
  · cases hv.symm.trans (h.unwritten i hi)

theorem State.genEnabled_iff (s : State) : s.genEnabled = true ↔ s.gidx.toNat < Config.nTbl := by
  simp [State.genEnabled]

/-- Below 256 `GIDX + 1` does not wrap (R27). -/
theorem toNat_gidx_succ {g : BitVec 9} (h : g.toNat < Config.nTbl) : (g + 1#9).toNat = g.toNat + 1 := by
  have : g.toNat < 256 := h
  rw [BitVec.toNat_add]
  exact Nat.mod_eq_of_lt (by simp; omega)

/-- The index GEN writes at is the low byte of `GIDX`. -/
theorem gidx_low_byte_of_toNat_eq {g : BitVec 9} {i : Byte} (h : i.toNat = g.toNat) : g.extractLsb' 0 8 = i := by
  apply BitVec.eq_of_toNat_eq
  have := i.isLt
  simp only [BitVec.extractLsb'_toNat, Nat.shiftRight_zero]
  omega

theorem State.genWrite_tblRead_same {s : State} {i : Byte} (h : i.toNat = s.gidx.toNat) :
    s.genWrite.tblRead i = some (genEntry i) := by
  simp [State.tblRead, h, gidx_low_byte_of_toNat_eq h]

theorem State.genWrite_tblRead_other {s : State} {i : Byte} (h : i.toNat ≠ s.gidx.toNat) :
    s.genWrite.tblRead i = s.tblRead i :=
  Table.read_write_other s.tbl h _

/-- GEN's step moves the border between the written and the unwritten entries up by one. -/
theorem State.TableInv.genWrite {s : State} (h : s.TableInv) (hg : s.gidx.toNat < Config.nTbl) :
    s.genWrite.TableInv := by
  have hsucc : s.genWrite.gidx.toNat = s.gidx.toNat + 1 := toNat_gidx_succ hg
  refine ⟨Table.write_wf h.tblWf hg _, by omega, ?ready, fun i hi => ?written, fun i hi => ?unwritten⟩
  case ready =>
    have hlast : s.gidx + 1#9 = 256#9 ↔ s.genWrite.gidx.toNat = Config.nTbl := BitVec.toNat_inj.symm
    have hnot : s.trdy ≠ true := fun ht => by have := h.readyIff.1 ht; omega
    rw [State.genWrite_trdy]
    split
    next he => exact iff_of_true rfl (hlast.1 he)
    next he => exact iff_of_false hnot (mt hlast.2 he)
  case written =>
    by_cases hi' : i.toNat = s.gidx.toNat
    · exact State.genWrite_tblRead_same hi'
    · rw [State.genWrite_tblRead_other hi']
      exact h.written i (by omega)
  case unwritten =>
    rw [State.genWrite_tblRead_other (by omega)]
    exact h.unwritten i (by omega)

theorem State.TableInv.genTurn {s : State} (h : s.TableInv) : s.genTurn.TableInv := by
  unfold State.genTurn
  split
  next hen => exact h.genWrite (s.genEnabled_iff.1 hen)
  next => exact h

end Sys2Proof.Machine
end

section
/-! The invariant at reset and through each turn (10_state.md R34, R36): O42, O46 and O47. -/

namespace Sys2Proof.Machine

/-! ### Reset -/

@[simp] theorem State.resetBlock_tblRead (s : State) (i : Byte) : s.resetBlock.tblRead i = none := rfl

theorem State.resetBlock_sessionInv (s : State) : s.resetBlock.SessionInv where
  cntLe := Nat.le_refl _
  idleClear _ := ⟨rfl, rfl, rfl, rfl⟩
  activeNoErr ha := by simp at ha
  errorCode he := by simp at he

theorem State.resetBlock_tableInv (s : State) : s.resetBlock.TableInv where
  tblWf := ⟨.nil, by simp⟩
  gidxLe := Nat.zero_le _
  readyIff := by simp [Config.nTbl]
  written _ hi := absurd hi (Nat.not_lt_zero _)
  unwritten i _ := s.resetBlock_tblRead i

/-- A reset needs nothing of the block it resets; the host's position is not the block's (log 9). -/
theorem State.resetBlock_inv {s : State} (hp : s.pos ≤ s.program.length) : s.resetBlock.Inv :=
  s.resetBlock.inv_iff.2 ⟨s.resetBlock_sessionInv, s.resetBlock_tableInv, Nat.zero_le _, hp⟩

/-- The state after reset is a fixed point of reset. -/
theorem State.reset_resetBlock : State.reset.resetBlock = State.reset := rfl

/-- With nothing counted and nothing accumulated, the bytes are none. -/
theorem State.tracksBytes_nil {s : State} (hc : s.cnt = 0#28) (ha : s.acc = 0#32) : s.TracksBytes [] := by
  simp [State.TracksBytes, hc, ha, crc32, Config.init]

/-- Settles O42, the step by `step_of_reset` and the fields by the lemmas about `State.resetBlock`. -/
theorem resetWritesEveryElement : Obligations.ResetWritesEveryElement := by
  refine ⟨fun s hm => ⟨_, step_of_reset hm, ?_⟩, rfl, rfl, rfl, rfl, rfl, fun _ => rfl, rfl, rfl, rfl⟩
  simp

/-- Settles O46: the state after reset is itself a reset block, with the host at position 0. -/
theorem resetMeetsTheInvariant : Obligations.ResetMeetsTheInvariant :=
  ⟨State.reset_resetBlock ▸ State.resetBlock_inv (Nat.zero_le _), State.tracksBytes_nil rfl rfl⟩

/-! ### The turns -/

theorem State.Inv.takeMove {s : State} (h : s.Inv) : s.takeMove.Inv := by
  obtain ⟨hs, ht, hq, hp⟩ := s.inv_iff.1 h
  exact s.takeMove.inv_iff.2 ⟨hs.of_eq, ht.of_eq, by simpa using hq, by simpa using hp⟩

theorem State.Inv.genTurn {s : State} (h : s.Inv) : s.genTurn.Inv := by
  obtain ⟨hs, ht, hq, hp⟩ := s.inv_iff.1 h
  exact s.genTurn.inv_iff.2 ⟨hs.of_eq, ht.genTurn, by simpa using hq, by simpa using hp⟩

/-- A pop never lengthens the queue. -/
theorem State.popHead_rspq_length_le (s : State) : s.popHead.rspq.length ≤ s.rspq.length := by
  unfold State.popHead
  split
  next => exact Nat.le_refl _
  next r rs hq => simp [hq]

theorem State.Inv.popHead {s : State} (h : s.Inv) : s.popHead.Inv := by
  obtain ⟨hs, ht, hq, hp⟩ := s.inv_iff.1 h
  exact s.popHead.inv_iff.2 ⟨hs.of_eq, ht.of_eq, Nat.le_trans s.popHead_rspq_length_le hq, by simpa using hp⟩

/-- A ready port has a free slot (R53). -/
theorem State.rspq_length_lt_of_cmdReady {s : State} {rst : Bool} (h : s.cmdReady rst = true) :
    s.rspq.length < Config.rspDepth := by
  simp only [State.cmdReady, Bool.and_eq_true, decide_eq_true_eq] at h
  exact h.1.2

/-- An offered word is within the host's list (R31). -/
theorem State.pos_lt_of_offered {s : State} {w : Word} (h : s.offered = some w) : s.pos < s.program.length :=
  (List.getElem?_eq_some_iff.1 h).1

/-- Performing an accepted word keeps the invariant: the offer gives the position's room, the ready port the record's. -/
theorem State.Inv.perform {s t : State} {w : Word} (h : s.Inv) (hw : s.offered = some w)
    (hc : s.cmdReady false = true) (hp : perform w s.advancePos = .next t) : t.Inv := by
  obtain ⟨hs, ht, -, -⟩ := s.inv_iff.1 h
  have hf := perform_sameTableAndHost hp
  have hs' : s.advancePos.SessionInv := hs.of_eq
  have ht' : s.advancePos.TableInv := ht.of_eq
  refine t.inv_iff.2 ⟨perform_sessionInv hs' hp, hf.tableInv ht', ?room, ?pos⟩
  case room =>
    have hlt := State.rspq_length_lt_of_cmdReady hc
    rcases perform_rspq_cases hp with hq | ⟨r, hq⟩
    · rw [hq]
      exact Nat.le_of_lt hlt
    · rw [hq, List.length_append]
      exact hlt
  case pos =>
    have hlt := State.pos_lt_of_offered hw
    rw [hf.pos, hf.program]
    exact hlt

/-- Settles O47: the turn used up keeps the invariant, and so does each thing a step can then do. -/
theorem everyStepKeepsTheInvariant : Obligations.EveryStepKeepsTheInvariant := by
  intro s t hi h
  have hi' := hi.takeMove
  rcases step_cases_acceptedWord h with ⟨w, -, -, hw, hc, hp⟩ | ⟨-, ⟨-, rfl | rfl | rfl⟩ | ⟨-, rfl⟩⟩
  · exact hi'.perform (by simpa using hw) (by simpa using hc) hp
  · exact hi'.genTurn
  · exact hi'
  · exact hi'.popHead
  · exact State.resetBlock_inv hi'.posLe

end Sys2Proof.Machine
end

section
/-! The accumulator is the checksum of the bytes accepted since the last START (10_state.md R34 item 7): O48. -/

namespace Sys2Proof.Machine

/-- One byte more is one update more (R142). -/
theorem crc32_append_singleton (bs : List Byte) (b : Byte) : crc32 (bs ++ [b]) = upd (crc32 bs) b := by
  simp [crc32]

/-- What is tracked depends on `CNT` and `ACC` only. -/
theorem State.TracksBytes.of_eq {s t : State} {bs : List Byte} (h : s.TracksBytes bs)
    (hc : t.cnt = s.cnt := by simp) (ha : t.acc = s.acc := by simp) : t.TracksBytes bs := by
  obtain ⟨hlen, hacc⟩ := h
  exact ⟨hlen.trans (congrArg _ hc.symm), ha.trans hacc⟩

/-- An accumulating BYTE appends its byte: the entry it reads is `GenEntry`, so its update is that of `crc32` (R141). -/
theorem State.TracksBytes.accumulate {s : State} {bs : List Byte} {b : Byte} {v : Word} (h : s.TracksBytes bs)
    (hs : s.SessionInv) (ht : s.TableInv) (hc : s.cnt ≠ s.len) (hv : s.tblRead (tableIndex s.acc b) = some v) :
    (s.accumulate (updWith s.acc v)).TracksBytes (bs ++ [b]) := by
  obtain ⟨hlen, hacc⟩ := h
  constructor
  · simp [hlen, hs.toNat_cntPlusOne hc]
  · rw [State.accumulate_acc, ht.eq_genEntry_of_tblRead hv, crc32_append_singleton, ← hacc, upd]

theorem execByte_tracksBytes {b : Byte} {s t : State} {bs : List Byte} (hs : s.SessionInv) (ht : s.TableInv)
    (hb : s.TracksBytes bs) (h : execByte b s = .next t) : t.TracksBytes (s.bytesAfter bs (.ok (.byte b))) := by
  rcases execByte_cases h with ⟨hst, rfl⟩ | ⟨hst, rfl⟩ | ⟨hst, hc, rfl⟩ | ⟨hst, hc, v, hv, rfl⟩
  · simpa [State.bytesAfter, hst] using hb.of_eq
  · simpa [State.bytesAfter, hst] using hb
  · simpa [State.bytesAfter, hst, hc] using hb.of_eq
  · simpa [State.bytesAfter, hst, hc] using hb.accumulate hs ht hc hv

/-- START and FINISH empty the bytes, BYTE may append one, and the other commands leave `CNT` and `ACC`. -/
theorem exec_tracksBytes {i : Instr} {s t : State} {bs : List Byte} (hs : s.SessionInv) (ht : s.TableInv)
    (hb : s.TracksBytes bs) (h : exec i s = .next t) : t.TracksBytes (s.bytesAfter bs (.ok i)) := by
  rcases exec_cases h with ⟨rfl, rfl⟩ | ⟨len, rfl, rfl⟩ | ⟨b, rfl, hbyte⟩ | ⟨rfl, rfl⟩ | ⟨k, rfl, v, -, rfl⟩ |
    ⟨rfl, rfl⟩ | ⟨rfl, rfl⟩
  · exact hb
  · exact State.tracksBytes_nil rfl rfl
  · exact execByte_tracksBytes hs ht hb hbyte
  · exact State.tracksBytes_nil rfl rfl
  · exact hb.of_eq
  · exact hb.of_eq
  · exact hb.of_eq

theorem perform_tracksBytes {w : Word} {s t : State} {bs : List Byte} (hs : s.SessionInv) (ht : s.TableInv)
    (hb : s.TracksBytes bs) (h : perform w s = .next t) : t.TracksBytes (s.bytesAfter bs (decode w)) := by
  rcases perform_cases h with ⟨i, hd, hx⟩ | ⟨e, hd, rfl⟩
  · rw [hd]
    exact exec_tracksBytes hs ht hb hx
  · rw [hd]
    exact hb.of_eq

/-- Using up the turn and moving the position change no byte that a word accumulates. -/
theorem State.bytesAfter_takeMove_advancePos (s : State) (bs : List Byte) (d : Except Illegal Instr) :
    s.takeMove.advancePos.bytesAfter bs d = s.bytesAfter bs d := by
  unfold State.bytesAfter
  simp

theorem State.bytesAfterStep_of_reset {s : State} (h : s.nextMove = .reset) (bs : List Byte) :
    s.bytesAfterStep bs = [] := by
  simp [State.bytesAfterStep, h]

theorem State.bytesAfterStep_of_accepted {s : State} {w : Word} (hm : s.nextMove ≠ .reset)
    (h : s.acceptedWord = some w) (bs : List Byte) : s.bytesAfterStep bs = s.bytesAfter bs (decode w) := by
  simp [State.bytesAfterStep, hm, h]

theorem State.bytesAfterStep_of_none {s : State} (hm : s.nextMove ≠ .reset) (h : s.acceptedWord = none)
    (bs : List Byte) : s.bytesAfterStep bs = bs := by
  simp [State.bytesAfterStep, hm, h]

/-- Settles O48: only an accepted word and reset touch `CNT` and `ACC`, the word as `perform_tracksBytes` says. -/
theorem accumulatorIsChecksumOfAcceptedBytes : Obligations.AccumulatorIsChecksumOfAcceptedBytes := by
  intro s t bs hi hb h
  rcases step_cases_acceptedWord h with ⟨w, ha, hm, -, -, hp⟩ | ⟨ha, ⟨hm, ht⟩ | ⟨hm, rfl⟩⟩
  · obtain ⟨hs, htb, -, -⟩ := s.takeMove.inv_iff.1 hi.takeMove
    have hb' : s.takeMove.advancePos.TracksBytes bs := hb.of_eq
    rw [State.bytesAfterStep_of_accepted hm ha, ← s.bytesAfter_takeMove_advancePos]
    exact perform_tracksBytes hs.of_eq htb.of_eq hb' hp
  · rw [State.bytesAfterStep_of_none hm ha]
    rcases ht with rfl | rfl | rfl
    all_goals exact hb.of_eq
  · rw [State.bytesAfterStep_of_reset hm]
    exact State.tracksBytes_nil rfl rfl

end Sys2Proof.Machine
end

section
/-! The command port and the response queue (20_memory.md R52 to R54, R63, R66): O23, O38, O40, O41 and O45. -/

namespace Sys2Proof.Machine

/-! ### Commands issued twice (R63) -/

/-- A written entry is what TREAD pushes. -/
theorem execTread_of_tblRead {s : State} {k : Byte} {v : Word} (h : s.tblRead k = some v) :
    execTread k s = .next (s.push .data v) := by
  simp [execTread, h]

/-- A query reads nothing that its own record changes, so issued again it pushes that record again. -/
theorem exec_query_again {i : Instr} {s t : State} (hi : (∃ k, i = .tread k) ∨ i = .status ∨ i = .remain)
    (h : exec i s = .next t) : ∃ d, t = s.push .data d ∧ exec i t = .next (t.push .data d) := by
  rcases hi with ⟨k, rfl⟩ | rfl | rfl
  · obtain ⟨v, hv, rfl⟩ := execTread_cases h
    exact ⟨v, rfl, execTread_of_tblRead (s := s.push .data v) hv⟩
  · cases h; exact ⟨s.statusWord, rfl, rfl⟩
  · cases h; exact ⟨zext32 (lenMinusCnt s.len s.cnt), rfl, rfl⟩

/-- START writes fixed values only, so a second one writes what is there. -/
theorem State.openSession_openSession (s : State) (len : Count) :
    (s.openSession len).openSession len = s.openSession len := rfl

/-- Settles O23: the queries by `exec_query_again`, START because what it writes depends on its length alone. -/
theorem queriesAndStartAreIdempotent : Obligations.QueriesAndStartAreIdempotent := by
  refine ⟨fun i s t u hi ht hu => ?_, fun len s t ht => ?_, fun s => rfl⟩
  · obtain ⟨d, rfl, hu'⟩ := exec_query_again hi ht
    cases hu.symm.trans hu'
    exact ⟨⟨.data, d⟩, by simp⟩
  · cases ht
    exact congrArg Host.Outcome.next (s.openSession_openSession len)

/-! ### Acceptance and hold (R53) -/

/-- Where a word is offered and the port is ready, ENG's turn performs it with the position one further. -/
theorem engTurn_of_ready {s : State} {w : Word} (ho : s.offered = some w) (hc : s.cmdReady false = true) :
    engTurn s = perform w s.advancePos := by
  simp [engTurn, ho, hc]

theorem State.takeMove_advancePos (s : State) : s.takeMove.advancePos = { s.takeMove with pos := s.pos + 1 } := by
  simp [State.advancePos]

/-- Settles O38: ENG's turn performs the word, and the performance of a legal word is its command. -/
theorem stepRunsDecodedCommand : Obligations.StepRunsDecodedCommand := by
  intro s w i hm hr ho hc hd
  calc step s = engTurn s.takeMove := step_of_eng hm hr
    _ = perform w s.takeMove.advancePos := engTurn_of_ready (by simpa using ho) (by simpa using hc)
    _ = exec i s.takeMove.advancePos := perform_of_ok hd _
    _ = exec i { s.takeMove with pos := s.pos + 1 } := by rw [s.takeMove_advancePos]

theorem State.cmdReady_iff (s : State) (rst : Bool) :
    s.cmdReady rst = true ↔ s.trdy = true ∧ s.rspq.length < Config.rspDepth ∧ rst = false := by
  simp [State.cmdReady, and_assoc]

theorem State.offered_eq_none_iff (s : State) : s.offered = none ↔ s.program.length ≤ s.pos :=
  List.getElem?_eq_none_iff

/-- Where ENG lacks one of the things it needs, it has no step. -/
theorem State.engEnabled_of_lack {s : State}
    (h : s.trdy = false ∨ Config.rspDepth ≤ s.rspq.length ∨ s.program.length ≤ s.pos) : s.engEnabled = false := by
  refine Bool.eq_false_iff.2 fun hen => ?_
  obtain ⟨w, hw, hc⟩ := (engEnabled_iff s).1 hen
  obtain ⟨ht, hq, -⟩ := (s.cmdReady_iff false).1 hc
  have hp := State.pos_lt_of_offered hw
  rcases h with hf | hf | hf
  · simp [hf] at ht
  · omega
  · omega

/-- Settles O40: `cmd_ready` by its definition, the hold because ENG has no step. -/
theorem engHoldsUnlessReady : Obligations.EngHoldsUnlessReady := by
  refine ⟨State.cmdReady_iff, fun s hm hr hlack => ?_⟩
  rw [step_of_eng hm hr]
  exact engTurn_of_not_enabled (State.engEnabled_of_lack (by simpa using hlack))

/-! ### The pop (R54) -/

theorem State.popHead_of_nil {s : State} (h : s.rspq = []) : s.popHead = s := by
  simp [State.popHead, h]

theorem State.popHead_of_cons {s : State} {r : Record} {rs : List Record} (h : s.rspq = r :: rs) :
    s.popHead = { s with rspq := rs, popped := s.popped ++ [r] } := by
  simp [State.popHead, h]

/-- A push works at the tail and a pop at the head, so with a record in the queue their order does not matter. -/
theorem State.push_popHead {s : State} (h : s.rspq ≠ []) (tag : Tag) (d : Word) :
    (s.push tag d).popHead = s.popHead.push tag d := by
  obtain ⟨r, rs, hq⟩ := List.exists_cons_of_ne_nil h
  have hq' : (s.push tag d).rspq = r :: (rs ++ [⟨tag, d⟩]) := by simp [hq]
  rw [State.popHead_of_cons hq, State.popHead_of_cons hq']
  rfl

/-- Settles O41: the pop by its two equations, the signals from the head record, and the order by `State.push_popHead`. -/
theorem popTakesHeadRecord : Obligations.PopTakesHeadRecord := by
  refine ⟨fun s r rs hm hr hq => ?pop, fun s hm hr hq => ?empty, fun s => ?valid, fun s r rs hq => ?head,
    fun s tag d hq => State.push_popHead hq tag d⟩
  case pop =>
    rw [step_of_pop hm hr, State.popHead_of_cons (by simpa using hq), s.takeMove_popped]
  case empty =>
    rw [step_of_pop hm hr, State.popHead_of_nil (by simpa using hq)]
  case valid => simp [State.rspValid]
  case head => simp [State.rspTag, State.rspData, hq]

/-! ### The order of the records (R66) -/

/-- A pop moves the border between the popped records and the queue, and nothing else. -/
theorem State.popHead_popped_append_rspq (s : State) :
    s.popHead.popped ++ s.popHead.rspq = s.popped ++ s.rspq := by
  cases hq : s.rspq with
  | nil => simp [State.popHead_of_nil hq, hq]
  | cons r rs => simp [State.popHead_of_cons hq]

/-- Settles O45: an accepted word leaves the popped records and adds at most one to the queue; no other turn adds any. -/
theorem recordsLeaveInPushOrder : Obligations.RecordsLeaveInPushOrder := by
  intro s t h hm
  rcases step_cases_acceptedWord h with ⟨w, ha, -, -, -, hp⟩ | ⟨-, ⟨-, rfl | rfl | rfl⟩ | ⟨hreset, -⟩⟩
  · have hpopped : t.popped = s.popped := by simpa using (perform_sameTableAndHost hp).popped
    rcases perform_rspq_cases hp with hq | ⟨r, hq⟩
    · exact .inl (by simp [hpopped, hq])
    · exact .inr ⟨by simp [ha], hpopped, r, by simpa using hq⟩
  · exact .inl (by simp)
  · exact .inl (by simp)
  · exact .inl (by simpa using s.takeMove.popHead_popped_append_rspq)
  · exact absurd hreset hm

end Sys2Proof.Machine
end

section
/-! What a run comes to does not depend on the order of the turns (20_memory.md R66, 00_scope.md R15): O55.

The idea: complete the table and hand the queue's records to the host (`State.settled`). Then GEN's turns and HOST's pops are
no longer seen, and ENG's turns are one function, `State.acceptNext`, applied once for each word accepted. So the position
alone says what the settled state is, and at its end a run's state is its own settled state. -/

namespace Sys2Proof.Machine

/-! ### The state settled: the table built and the queue handed over -/

/-- The state with the table completed (R105). -/
def State.built (s : State) : State := { s with tbl := builtTable, gidx := 256#9, trdy := true }

/-- The state with every record of the queue popped (R54). -/
def State.drained (s : State) : State := { s with rspq := [], popped := s.popped ++ s.rspq }

/-- The state with the table completed and every record popped. -/
def State.settled (s : State) : State := s.built.drained

/-- A table in canonical form lists no index from 256 on. -/
theorem Table.read_none_of_nTbl_le {t : Table} (ht : Table.wf t) {i : Nat} (hi : Config.nTbl ≤ i) :
    Table.read t i = none :=
  Table.read_none fun p hp => Nat.ne_of_lt (Nat.lt_of_lt_of_le (ht.2 p hp) hi)

/-- Two tables in canonical form are equal when they read alike at the 256 indices. -/
theorem Table.eq_of_read_byte {t u : Table} (ht : Table.wf t) (hu : Table.wf u)
    (h : ∀ i : Byte, Table.read t i.toNat = Table.read u i.toNat) : t = u := by
  refine Table.eq_of_read ht hu fun i => ?_
  rcases Nat.lt_or_ge i Config.nTbl with hi | hi
  · simpa [Nat.mod_eq_of_lt (show i < 256 from hi)] using h (BitVec.ofNat 8 i)
  · rw [Table.read_none_of_nTbl_le ht hi, Table.read_none_of_nTbl_le hu hi]

/-- At `GIDX` 256 the table is complete already. -/
theorem State.TableInv.built_eq {s : State} (h : s.TableInv) (hg : s.gidx.toNat = Config.nTbl) : s.built = s := by
  have htbl : builtTable = s.tbl := Table.eq_of_read_byte builtTable_wf h.tblWf fun i =>
    (builtTable_read i).trans (h.written i (hg ▸ i.isLt)).symm
  have hgidx : 256#9 = s.gidx := BitVec.eq_of_toNat_eq hg.symm
  have htrdy : true = s.trdy := (h.readyIff.2 hg).symm
  rw [State.built, htbl, hgidx, htrdy]

theorem State.drained_eq {s : State} (h : s.rspq = []) : s.drained = s := by
  rw [State.drained, h, List.append_nil, ← h]

/-- At its end a run's state is settled (R250). -/
theorem State.RunEnded.settled_eq {s : State} (h : s.RunEnded) (hi : s.Inv) : s.settled = s := by
  obtain ⟨-, hg, hq⟩ := h
  obtain ⟨-, ht, -, -⟩ := s.inv_iff.1 hi
  rw [State.settled, ht.built_eq hg, State.drained_eq hq]

/-! ### GEN and HOST are not seen -/

theorem State.genTurn_settled (s : State) : s.genTurn.settled = s.settled := by
  unfold State.genTurn
  split <;> rfl

theorem State.popHead_settled (s : State) : s.popHead.settled = s.settled := by
  simp [State.settled, State.built, State.drained, s.popHead_popped_append_rspq]

/-! ### ENG does the same on the settled state -/

@[simp] theorem State.drained_sst (s : State) : s.drained.sst = s.sst := rfl
@[simp] theorem State.drained_len (s : State) : s.drained.len = s.len := rfl
@[simp] theorem State.drained_cnt (s : State) : s.drained.cnt = s.cnt := rfl

/-- A push leaves the same records whether the queue has been drained before it or not. -/
theorem State.drained_push_drained (s : State) (tag : Tag) (d : Word) :
    (s.drained.push tag d).drained = (s.push tag d).drained := by
  simp [State.drained, State.push]

theorem State.drained_drained (s : State) : s.drained.drained = s.drained := State.drained_eq rfl

theorem State.drained_raiseErr (s : State) (c : ErrCode) : s.drained.raiseErr c = (s.raiseErr c).drained := by
  by_cases h : s.sst = .error <;> simp [State.raiseErr, State.drained, h]

/-- BYTE neither reads nor writes the queue. -/
theorem execByte_drained {b : Byte} {s t : State} (h : execByte b s = .next t) :
    execByte b s.drained = .next t.drained := by
  rcases execByte_cases h with ⟨hs, rfl⟩ | ⟨hs, rfl⟩ | ⟨hs, hc, rfl⟩ | ⟨hs, hc, v, hv, rfl⟩
  · simp [execByte, hs, State.drained_raiseErr]
  · simp [execByte, hs]
  · simp [execByte, hs, hc, State.drained_raiseErr]
  · exact execByte_accumulates (s := s.drained) hs hc hv

/-- No command reads the queue, so draining it before or after a command comes to the same. -/
theorem exec_drained {i : Instr} {s t : State} (h : exec i s = .next t) :
    ∃ u, exec i s.drained = .next u ∧ u.drained = t.drained := by
  rcases exec_cases h with ⟨rfl, rfl⟩ | ⟨len, rfl, rfl⟩ | ⟨b, rfl, hb⟩ | ⟨rfl, rfl⟩ | ⟨k, rfl, v, hv, rfl⟩ |
    ⟨rfl, rfl⟩ | ⟨rfl, rfl⟩
  · exact ⟨_, rfl, t.drained_drained⟩
  · exact ⟨_, rfl, State.drained_drained (s.openSession len)⟩
  · exact ⟨_, execByte_drained hb, t.drained_drained⟩
  · exact ⟨_, rfl, congrArg State.clearSession (s.drained_push_drained _ _)⟩
  · exact ⟨_, execTread_of_tblRead (s := s.drained) hv, s.drained_push_drained _ _⟩
  · exact ⟨_, rfl, s.drained_push_drained _ _⟩
  · exact ⟨_, rfl, s.drained_push_drained _ _⟩

theorem perform_drained {w : Word} {s t : State} (h : perform w s = .next t) :
    ∃ u, perform w s.drained = .next u ∧ u.drained = t.drained := by
  rcases perform_cases h with ⟨i, hd, hx⟩ | ⟨e, hd, rfl⟩
  · rw [perform_of_ok hd]
    exact exec_drained hx
  · exact ⟨_, perform_of_illegal hd _, by rw [State.drained_raiseErr, State.drained_drained]⟩

/-- ENG's turn on a settled state, settled again: the next word of the host's list performed with no other agent about. -/
def State.acceptNext (s : State) : State :=
  match engTurn s with
  | .next t => t.settled
  | .fault _ => s
  | .refused _ => s

/-- A settled state's port is ready: the queue has at least one slot (R10, R53). -/
theorem State.settled_cmdReady (s : State) : s.settled.cmdReady false = true :=
  (s.settled.cmdReady_iff false).2 ⟨rfl, Nat.succ_pos _, rfl⟩

theorem State.acceptNext_of_perform {s t : State} {w : Word} (ho : s.offered = some w)
    (hc : s.cmdReady false = true) (hp : perform w s.advancePos = .next t) : s.acceptNext = t.settled := by
  rw [State.acceptNext, engTurn_of_ready ho hc, hp]

/-- Under the invariant an accepted word does to the settled state what it does to the state itself: ENG accepts only with
the table complete, and the command reads nothing of the queue. -/
theorem settled_of_accepted {s t : State} {w : Word} (hi : s.Inv) (ho : s.offered = some w)
    (hc : s.cmdReady false = true) (hp : perform w s.advancePos = .next t) : t.settled = s.settled.acceptNext := by
  obtain ⟨htrdy, -, -⟩ := (s.cmdReady_iff false).1 hc
  obtain ⟨-, htb, -, -⟩ := s.inv_iff.1 hi
  have hs : s.settled.advancePos = s.advancePos.drained := by
    rw [State.settled, htb.built_eq (htb.readyIff.1 htrdy)]
    rfl
  obtain ⟨u, hu, hut⟩ := perform_drained hp
  calc t.settled = u.settled := congrArg State.built hut.symm
    _ = s.settled.acceptNext :=
      (State.acceptNext_of_perform (s := s.settled) ho s.settled_cmdReady (hs ▸ hu)).symm

/-! ### Runs -/

/-- The induction of a run for the states it comes to: what holds at the start and every turn that answers keeps. -/
theorem runFrom_keeps {start : State} {turns : Nat → Move} {p : State → Prop} (h0 : p start)
    (hs : ∀ n s t, p s → step (s.withTurn (turns n)) = .next t → p t) (n : Nat) {s : State}
    (h : runFrom start turns n = .next s) : p s := by
  induction n generalizing s with
  | zero => cases h; exact h0
  | succ n ih =>
    obtain ⟨r, hr, hstep⟩ := runFrom_pred h
    exact hs n r s (ih hr) hstep

/-- What holds along a run with no reset: the invariant, no turn settled in advance, the host's list as at the start, and a
settled state that the position alone determines. -/
structure State.OnRunOf (s : State) (program : List Word) : Prop where
  inv : s.Inv
  schedule : s.schedule = []
  list : s.program = program
  settled : s.settled = State.acceptNext^[s.pos] (State.launch program).settled

theorem State.launch_inv (program : List Word) : (State.launch program).Inv :=
  State.resetBlock_inv (s := State.launch program) (Nat.zero_le _)

theorem State.launch_onRunOf (program : List Word) : (State.launch program).OnRunOf program :=
  ⟨State.launch_inv program, rfl, rfl, rfl⟩

/-- The invariant says nothing about the turns. -/
theorem State.Inv.withTurn {s : State} (h : s.Inv) (m : Move) : (s.withTurn m).Inv := by
  obtain ⟨hs, ht, hq, hp⟩ := s.inv_iff.1 h
  exact (s.withTurn m).inv_iff.2 ⟨hs.of_eq rfl rfl rfl rfl rfl, ht.of_eq rfl rfl rfl, hq, hp⟩

theorem State.withTurn_takeMove_of_schedule_nil {s : State} (h : s.schedule = []) (m : Move) :
    (s.withTurn m).takeMove = s := by
  rw [State.withTurn_takeMove, ← h]

/-- One turn of a run without reset: an accepted word is one `State.acceptNext` of the settled state and one position more;
every other turn leaves both. -/
theorem State.OnRunOf.keeps_turn {s t : State} {program : List Word} {m : Move} (h : s.OnRunOf program) (hm : m ≠ .reset)
    (ht : step (s.withTurn m) = .next t) : t.OnRunOf program := by
  obtain ⟨hinv, hsched, hprog, hsettled⟩ := h
  have htake := State.withTurn_takeMove_of_schedule_nil hsched m
  have hinv' : t.Inv := everyStepKeepsTheInvariant _ _ (hinv.withTurn m) ht
  rcases step_cases_acceptedWord ht with ⟨w, -, -, ho, hc, hp⟩ | ⟨-, ⟨-, ht⟩ | ⟨hreset, -⟩⟩
  · rw [htake] at hp
    have hf := perform_sameTableAndHost hp
    have hpos : t.pos = s.pos + 1 := hf.pos
    refine ⟨hinv', hf.schedule.trans hsched, hf.program.trans hprog, ?_⟩
    rw [hpos, Function.iterate_succ_apply', ← hsettled]
    exact settled_of_accepted hinv ho hc hp
  · rw [htake] at ht
    rcases ht with rfl | rfl | rfl
    · exact ⟨hinv', by simpa using hsched, by simpa using hprog, by simpa [State.genTurn_settled] using hsettled⟩
    · exact ⟨hinv', hsched, hprog, hsettled⟩
    · exact ⟨hinv', by simpa using hsched, by simpa using hprog, by simpa [State.popHead_settled] using hsettled⟩
  · exact absurd hreset hm

theorem runAfter_onRunOf {program : List Word} {turns : Nat → Move} (hr : NoResetAfterStart turns) {n : Nat}
    {s : State} (h : runAfter program turns n = .next s) : s.OnRunOf program :=
  runFrom_keeps (p := fun s => s.OnRunOf program) (State.launch_onRunOf program)
    (fun k _ _ hs ht => hs.keeps_turn (hr k) ht) n h

/-- At the end of a run the state is what the host's list makes of the settled launch state, word by word. -/
theorem State.OnRunOf.eq_of_runEnded {s : State} {program : List Word} (h : s.OnRunOf program) (he : s.RunEnded) :
    s = State.acceptNext^[program.length] (State.launch program).settled := by
  have hpos : s.pos = program.length := h.list ▸ he.1
  calc s = s.settled := (he.settled_eq h.inv).symm
    _ = State.acceptNext^[s.pos] (State.launch program).settled := h.settled
    _ = State.acceptNext^[program.length] (State.launch program).settled := by rw [hpos]

/-- Settles O55: both final states are the one that `State.OnRunOf.eq_of_runEnded` names, and the records are a field of it. -/
theorem endedRunsOfOneProgramAgree : Obligations.EndedRunsOfOneProgramAgree := by
  rintro program turns turns' records records' final final' hr hr' ⟨n, _, hs, he, hobs⟩ ⟨n', _, hs', he', hobs'⟩
  cases hobs
  cases hobs'
  have heq : final = final' := ((runAfter_onRunOf hr hs).eq_of_runEnded he).trans
    ((runAfter_onRunOf hr' hs').eq_of_runEnded he').symm
  exact ⟨congrArg State.popped heq, heq⟩

end Sys2Proof.Machine
end

section
/-! The codec (30_encoding.md R71 to R75): a word as its fields, the decoder by format and by opcode, and that the decoder and
the encoder undo each other; O1 and O2. -/

namespace Sys2Proof

/-! ### A word and its fields (R71) -/

@[simp] theorem opField_append (op : BitVec 4) (x : Count) : opField (op ++ x) = op :=
  BitVec.extractLsb'_append_eq_left

@[simp] theorem low28_append (op : BitVec 4) (x : Count) : low28 (op ++ x) = x :=
  BitVec.extractLsb'_append_eq_right

theorem rsv20_append (op : BitVec 4) (r : BitVec 20) (b : Byte) : rsv20 (op ++ (r ++ b)) = r := by
  rw [rsv20, BitVec.extractLsb'_append_eq_of_add_le (by decide)]
  exact BitVec.extractLsb'_append_eq_left

theorem imm8_append (op : BitVec 4) (r : BitVec 20) (b : Byte) : imm8 (op ++ (r ++ b)) = b := by
  rw [imm8, BitVec.extractLsb'_append_eq_of_add_le (by decide)]
  exact BitVec.extractLsb'_append_eq_right

/-- No bit of a word lies outside its opcode and its low 28 bits. -/
theorem opField_append_low28 (w : Word) : opField w ++ low28 w = w :=
  BitVec.extractLsb'_append_extractLsb'

/-- Format B cuts the low 28 bits in two. -/
theorem rsv20_append_imm8 (w : Word) : rsv20 w ++ imm8 w = low28 w :=
  BitVec.extractLsb'_append_extractLsb'_eq_extractLsb' rfl

/-! ### The decoder, by format and by opcode (R75) -/

theorem formatN_eq_ok_iff {w : Word} {i j : Instr} : formatN w i = .ok j ↔ low28 w = 0#28 ∧ i = j := by
  unfold formatN; split <;> simp [*]

theorem formatB_eq_ok_iff {w : Word} {f : Byte → Instr} {j : Instr} :
    formatB w f = .ok j ↔ rsv20 w = 0#20 ∧ f (imm8 w) = j := by
  unfold formatB; split <;> simp [*]

theorem opcode_cases : ∀ op : BitVec 4,
    7 ≤ op.toNat ∨ op = 0#4 ∨ op = 1#4 ∨ op = 2#4 ∨ op = 3#4 ∨ op = 4#4 ∨ op = 5#4 ∨ op = 6#4 := by
  decide

/-- Every way a word can decode, by its opcode. -/
theorem decode_cases (w : Word) :
    (opField w = 0#4 ∧ decode w = formatN w .nop) ∨ (opField w = 1#4 ∧ decode w = .ok (.start (low28 w))) ∨
      (opField w = 2#4 ∧ decode w = formatB w .byte) ∨ (opField w = 3#4 ∧ decode w = formatN w .finish) ∨
      (opField w = 4#4 ∧ decode w = formatB w .tread) ∨ (opField w = 5#4 ∧ decode w = formatN w .status) ∨
      (opField w = 6#4 ∧ decode w = formatN w .remain) ∨
      (7 ≤ (opField w).toNat ∧ decode w = .error .reservedOpcode) := by
  rcases opcode_cases (opField w) with h | h | h | h | h | h | h | h
  · have hne : ∀ op : BitVec 4, op.toNat < 7 → opField w ≠ op := by
      rintro op hop rfl
      omega
    simp [decode, h, hne]
  all_goals simp [decode, h]

/-! ### Encoding and decoding undo each other -/

/-- Format B reads its operand back. -/
theorem formatB_append (op : BitVec 4) (b : Byte) (f : Byte → Instr) : formatB (op ++ (0#20 ++ b)) f = .ok (f b) :=
  formatB_eq_ok_iff.2 ⟨rsv20_append op 0#20 b, congrArg f (imm8_append op 0#20 b)⟩

theorem decode_encode (i : Instr) : decode (encode i) = .ok i := by
  cases i with
  | nop | finish | status | remain => rfl
  | start len => simp [encode, decode]
  | byte b => simpa [encode, decode] using formatB_append 0x2#4 b .byte
  | tread k => simpa [encode, decode] using formatB_append 0x4#4 k .tread

/-- Settles O1: the round trip is `decode_encode`, and every command is well formed by its operands' types. -/
theorem decodeOfEncodeReturnsInstr : Obligations.DecodeOfEncodeReturnsInstr :=
  fun i => ⟨by cases i <;> rfl, decode_encode i⟩

/-- A word of format N is its opcode and zeros. -/
theorem encode_of_formatN {w : Word} {i j : Instr} (hi : encode i = opField w ++ 0#28) (h : formatN w i = .ok j) :
    encode j = w := by
  obtain ⟨hr, rfl⟩ := formatN_eq_ok_iff.1 h
  rw [hi, ← hr, opField_append_low28]

/-- A word of format B is its opcode, zeros and the operand. -/
theorem encode_of_formatB {w : Word} {f : Byte → Instr} {j : Instr}
    (hf : ∀ b, encode (f b) = opField w ++ (0#20 ++ b)) (h : formatB w f = .ok j) : encode j = w := by
  obtain ⟨hr, rfl⟩ := formatB_eq_ok_iff.1 h
  rw [hf, ← hr, rsv20_append_imm8, opField_append_low28]

theorem encode_of_decode {w : Word} {i : Instr} (h : decode w = .ok i) : encode i = w := by
  rcases decode_cases w with ⟨ho, hd⟩ | ⟨ho, hd⟩ | ⟨ho, hd⟩ | ⟨ho, hd⟩ | ⟨ho, hd⟩ | ⟨ho, hd⟩ | ⟨ho, hd⟩ | ⟨ho, hd⟩ <;>
    rw [hd] at h
  · exact encode_of_formatN (by rw [ho]; rfl) h
  · cases h
    rw [encode, ← ho, opField_append_low28]
  · exact encode_of_formatB (fun _ => by rw [ho]; rfl) h
  · exact encode_of_formatN (by rw [ho]; rfl) h
  · exact encode_of_formatB (fun _ => by rw [ho]; rfl) h
  · exact encode_of_formatN (by rw [ho]; rfl) h
  · exact encode_of_formatN (by rw [ho]; rfl) h
  · cases h

/-- Settles O2, by `encode_of_decode`: each format's fields make up the whole word. -/
theorem encodeOfDecodedReturnsWord : Obligations.EncodeOfDecodedReturnsWord := fun _ _ => encode_of_decode

end Sys2Proof
end

section
/-! The opcode map (30_encoding.md R74): a row's masked bits name its commands, and the opcodes 7 to 15 name none; O3. -/

namespace Sys2Proof

/-! ### Words under a row's mask -/

theorem append_eq_append_iff {m n : Nat} {a a' : BitVec m} {b b' : BitVec n} :
    a ++ b = a' ++ b' ↔ a = a' ∧ b = b' := by
  refine ⟨fun h => ⟨?_, ?_⟩, fun ⟨ha, hb⟩ => ha ▸ hb ▸ rfl⟩
  · simpa only [BitVec.extractLsb'_append_eq_left] using congrArg (BitVec.extractLsb' n m) h
  · simpa only [BitVec.extractLsb'_append_eq_right] using congrArg (BitVec.extractLsb' 0 n) h

/-- The mask of format L keeps the opcode, so under it the low 28 bits are free. -/
theorem append_low28_of_masked {w : Word} {op : BitVec 4} (h : w &&& 0xF0000000#32 = op ++ 0#28) :
    op ++ low28 w = w := by
  have hf : (opField w ++ low28 w) &&& (0xF#4 ++ 0#28) = op ++ 0#28 := by rwa [opField_append_low28]
  rw [BitVec.and_append, append_eq_append_iff] at hf
  have hop : opField w = op := BitVec.and_allOnes.symm.trans hf.1
  rw [← hop, opField_append_low28]

/-- The mask of format B keeps the opcode and the reserved field, so under it the operand is free. -/
theorem append_imm8_of_masked {w : Word} {op : BitVec 4} (h : w &&& 0xFFFFFF00#32 = op ++ 0#28) :
    op ++ (0#20 ++ imm8 w) = w := by
  have hf : (opField w ++ (rsv20 w ++ imm8 w)) &&& (0xF#4 ++ (0xFFFFF#20 ++ 0#8)) = op ++ (0#20 ++ 0#8) := by
    rwa [rsv20_append_imm8, opField_append_low28]
  rw [BitVec.and_append, append_eq_append_iff, BitVec.and_append, append_eq_append_iff] at hf
  obtain ⟨hop, hr, -⟩ := hf
  have hop : opField w = op := BitVec.and_allOnes.symm.trans hop
  have hr : rsv20 w = 0#20 := BitVec.and_allOnes.symm.trans hr
  rw [← hop, ← hr, rsv20_append_imm8, opField_append_low28]

/-! ### A row's commands -/

theorem encode_masked_row (i : Instr) : encode i &&& i.row.mask = i.row.pattern := by
  have hs : Laws.TableRow.Statement i := by
    cases i with
    | nop => exact Laws.TableRow.nop
    | start len => exact Laws.TableRow.start len
    | byte b => exact Laws.TableRow.byte b
    | finish => exact Laws.TableRow.finish
    | tread k => exact Laws.TableRow.tread k
    | status => exact Laws.TableRow.status
    | remain => exact Laws.TableRow.remain
  exact hs.2

/-- A word whose masked bits are a row's pattern is the word of a command of that row. -/
theorem exists_encode_of_masked {w : Word} {i : Instr} (h : w &&& i.row.mask = i.row.pattern) :
    ∃ j, encode j = w ∧ j.row = i.row := by
  cases i with
  | nop => exact ⟨.nop, h.symm.trans BitVec.and_allOnes, rfl⟩
  | start => exact ⟨.start (low28 w), append_low28_of_masked h, rfl⟩
  | byte => exact ⟨.byte (imm8 w), append_imm8_of_masked h, rfl⟩
  | finish => exact ⟨.finish, h.symm.trans BitVec.and_allOnes, rfl⟩
  | tread => exact ⟨.tread (imm8 w), append_imm8_of_masked h, rfl⟩
  | status => exact ⟨.status, h.symm.trans BitVec.and_allOnes, rfl⟩
  | remain => exact ⟨.remain, h.symm.trans BitVec.and_allOnes, rfl⟩

theorem masked_iff_decode {w : Word} {r : OpcodeRow} (hr : r ∈ opcodeRows) :
    w &&& r.mask = r.pattern ↔ ∃ i, decode w = .ok i ∧ i.row = r := by
  obtain ⟨i, -, rfl⟩ := List.mem_map.1 hr
  constructor
  · intro h
    obtain ⟨j, rfl, hj⟩ := exists_encode_of_masked h
    exact ⟨j, decode_encode j, hj⟩
  · rintro ⟨j, hd, hj⟩
    rw [← hj, ← encode_of_decode hd]
    exact encode_masked_row j

theorem opField_encode_lt (i : Instr) : (opField (encode i)).toNat < 7 := by
  cases i with
  | nop | finish | status | remain => decide
  | start | byte | tread => simp [encode]

/-- Settles O3: a word decodes to one command at most, so its row is one, and a command's opcode is below 7. -/
theorem wordIsCommandExactlyWhenMaskMatches : Obligations.WordIsCommandExactlyWhenMaskMatches := by
  refine ⟨rfl, fun w r hr => masked_iff_decode hr, fun w r hr r' hr' h h' => ?unique, fun w hw i hd => ?reserved⟩
  case unique =>
    obtain ⟨i, hd, rfl⟩ := (masked_iff_decode hr).1 h
    obtain ⟨j, hd', rfl⟩ := (masked_iff_decode hr').1 h'
    cases hd.symm.trans hd'
    rfl
  case reserved =>
    have hlt := opField_encode_lt i
    rw [encode_of_decode hd] at hlt
    omega

end Sys2Proof
end

section
/-! The illegal words (30_encoding.md R76) and the error entry that each is (60_exceptions.md R201, R204); O4 and O39. -/

namespace Sys2Proof.Machine

/-! ### Which words are illegal -/

theorem exists_formatN_error_iff {w : Word} {i : Instr} : (∃ e, formatN w i = .error e) ↔ low28 w ≠ 0#28 := by
  unfold formatN; split <;> simp [*]

theorem exists_formatB_error_iff {w : Word} {f : Byte → Instr} : (∃ e, formatB w f = .error e) ↔ rsv20 w ≠ 0#20 := by
  unfold formatB; split <;> simp [*]

theorem exists_decode_error_iff (w : Word) :
    (∃ e, decode w = .error e) ↔
      7 ≤ (opField w).toNat ∨
        ((opField w = 0#4 ∨ opField w = 3#4 ∨ opField w = 5#4 ∨ opField w = 6#4) ∧ low28 w ≠ 0#28) ∨
        ((opField w = 2#4 ∨ opField w = 4#4) ∧ rsv20 w ≠ 0#20) := by
  rcases decode_cases w with ⟨ho, hd⟩ | ⟨ho, hd⟩ | ⟨ho, hd⟩ | ⟨ho, hd⟩ | ⟨ho, hd⟩ | ⟨ho, hd⟩ | ⟨ho, hd⟩ | ⟨ho, hd⟩ <;>
    simp [ho, hd, exists_formatN_error_iff, exists_formatB_error_iff]

/-! ### What performing one does -/

theorem State.raiseErr_of_ne_error {s : State} (h : s.sst ≠ .error) (c : ErrCode) :
    s.raiseErr c = { s with sst := .error, err := c.code } := by
  simp [State.raiseErr, h]

/-- Settles O4: the illegal words by opcode and reserved field, their performance by the two equations of the error entry. -/
theorem illegalWordsAreTheReservedOnesAndRaise : Obligations.IllegalWordsAreTheReservedOnesAndRaise := by
  refine ⟨exists_decode_error_iff, fun w e s hd hs => ?_, fun w e s hd hs => ?_, decode_encode .nop⟩
  · rw [perform_of_illegal hd, State.raiseErr_of_ne_error hs]
    rfl
  · rw [perform_of_illegal hd, State.raiseErr_of_error hs]

/-- An accepted illegal word is the error entry on the state with the turn used up and the position one further (R79). -/
theorem step_of_illegal {s : State} {w : Word} {e : Illegal} (hm : s.nextMove = .eng) (hr : s.resetDone = true)
    (ho : s.offered = some w) (hc : s.cmdReady false = true) (hd : decode w = .error e) :
    step s = .next (s.takeMove.advancePos.raiseErr .illegalCmd) := by
  calc step s = engTurn s.takeMove := step_of_eng hm hr
    _ = perform w s.takeMove.advancePos := engTurn_of_ready (by simpa using ho) (by simpa using hc)
    _ = .next (s.takeMove.advancePos.raiseErr .illegalCmd) := perform_of_illegal hd _

/-- Settles O39: `step_of_illegal`, with the error entry outside ERROR and in it. -/
theorem acceptedIllegalWordRaises : Obligations.AcceptedIllegalWordRaises := by
  intro s w e hm hr ho hc hd
  rw [step_of_illegal hm hr ho hc hd]
  refine ⟨fun hs => ?_, fun hs => ?_⟩
  · rw [State.raiseErr_of_ne_error (by simpa using hs), s.takeMove_advancePos]
    rfl
  · rw [State.raiseErr_of_error (by simpa using hs), s.takeMove_advancePos]

end Sys2Proof.Machine
end

section
/-! The assembler (30_encoding.md R77, R78): the words of operands in range, the error of one out of range, and a text as the
list of its quoted characters; O6 and O7. -/

namespace Sys2Proof

/-! ### A command's word as its opcode ORed with its operand (R72 to R74) -/

theorem append_eq_or_setWidth (op : BitVec 4) (x : Count) : op ++ x = (op ++ 0#28) ||| x.setWidth 32 := by
  have hx : x.setWidth 32 = 0#4 ++ x := BitVec.setWidth_eq_append (by decide)
  rw [hx, BitVec.or_append, BitVec.or_zero, BitVec.zero_or]

/-- In format B the operand is the low 28 bits, widened. -/
theorem append_zero_append_eq_or_setWidth (op : BitVec 4) (b : Byte) :
    op ++ (0#20 ++ b) = (op ++ 0#28) ||| b.setWidth 32 := by
  have hb : b.setWidth 28 = 0#20 ++ b := BitVec.setWidth_eq_append (by decide)
  rw [← hb, append_eq_or_setWidth, BitVec.setWidth_setWidth (by decide)]

theorem encode_start_eq_or (len : Count) : encode (.start len) = 0x10000000#32 ||| len.setWidth 32 :=
  append_eq_or_setWidth 0x1#4 len

theorem encode_byte_eq_or (b : Byte) : encode (.byte b) = 0x20000000#32 ||| b.setWidth 32 :=
  append_zero_append_eq_or_setWidth 0x2#4 b

theorem encode_tread_eq_or (k : Byte) : encode (.tread k) = 0x40000000#32 ||| k.setWidth 32 :=
  append_zero_append_eq_or_setWidth 0x4#4 k

/-! ### Operands -/

theorem encode_start_ofNat {n : Nat} (h : n < 2 ^ 28) :
    encode (.start (BitVec.ofNat 28 n)) = 0x10000000#32 ||| BitVec.ofNat 32 n := by
  rw [encode_start_eq_or, BitVec.setWidth_ofNat_of_le_of_lt (by decide) h]

theorem encode_tread_ofNat {k : Nat} (h : k < 2 ^ 8) :
    encode (.tread (BitVec.ofNat 8 k)) = 0x40000000#32 ||| BitVec.ofNat 32 k := by
  rw [encode_tread_eq_or, BitVec.setWidth_ofNat_of_le_of_lt (by decide) h]

theorem AsmOperand.wellFormed_iff (v : AsmOperand) :
    v.wellFormed = true ↔ (∃ n, v = .num n ∧ n < 256) ∨ ∃ c : Char, v = .quoted c ∧ c.toNat ≤ 127 := by
  cases v <;> simp [AsmOperand.wellFormed, asciiOk]

theorem AsmOperand.wellFormed_eq_false_iff (v : AsmOperand) :
    v.wellFormed = false ↔ (∃ n, v = .num n ∧ 256 ≤ n) ∨ ∃ c : Char, v = .quoted c ∧ 127 < c.toNat := by
  cases v <;> simp [AsmOperand.wellFormed, asciiOk]

theorem AsmOperand.number_lt {v : AsmOperand} (h : v.wellFormed = true) : v.number < 2 ^ 8 := by
  rcases v.wellFormed_iff.1 h with ⟨n, rfl, hn⟩ | ⟨c, rfl, hc⟩
  · exact hn
  · exact Nat.lt_of_le_of_lt hc (by decide)

theorem encode_byte_operand {v : AsmOperand} (h : v.wellFormed = true) :
    encode (.byte v.byte) = 0x20000000#32 ||| BitVec.ofNat 32 v.number := by
  rw [encode_byte_eq_or, AsmOperand.byte, BitVec.setWidth_ofNat_of_le_of_lt (by decide) (AsmOperand.number_lt h)]

/-! ### One line (R77) -/

theorem assemble_of_wellFormed (l : AsmLine) (h : l.wellFormed = true) : assemble l = some l.words := if_pos h

theorem assemble_of_not_wellFormed (l : AsmLine) (h : l.wellFormed = false) : assemble l = none := by
  simp [assemble, h]

theorem assemble_congr {l l' : AsmLine} (hwf : l.wellFormed = l'.wellFormed) (hw : l.words = l'.words) :
    assemble l = assemble l' := by
  rw [assemble, assemble, hwf, hw]

theorem assemble_byte {v : AsmOperand} (h : v.wellFormed = true) :
    assemble (.byte v) = some [0x20000000#32 ||| BitVec.ofNat 32 v.number] := by
  rw [assemble_of_wellFormed (.byte v) h, AsmLine.words, encode_byte_operand h]

/-- Settles O6: the words without operand by evaluation, the others by their operand's range. -/
theorem assemblerEmitsWordOrError : Obligations.AssemblerEmitsWordOrError := by
  refine ⟨rfl, rfl, rfl, rfl, fun n hn => ?start, fun n hn => ?startOut, fun v hv => ?byte, fun v hv => ?byteOut,
    fun c hc => ?quoted, fun c hc => ?quotedOut, fun k hk => ?tread, fun k hk => ?treadOut, fun w => ?word,
    fun w hw => ?wordOut⟩
  case start => rw [assemble_of_wellFormed (.start n) (decide_eq_true hn), AsmLine.words, encode_start_ofNat hn]
  case startOut => exact assemble_of_not_wellFormed _ (decide_eq_false hn.not_gt)
  case byte => exact assemble_byte (v := .num v) (decide_eq_true hv)
  case byteOut => exact assemble_of_not_wellFormed _ (decide_eq_false hv.not_gt)
  case quoted => exact assemble_byte (v := .quoted c) (decide_eq_true hc)
  case quotedOut => exact assemble_of_not_wellFormed _ (decide_eq_false hc.not_ge)
  case tread => rw [assemble_of_wellFormed (.tread k) (decide_eq_true hk), AsmLine.words, encode_tread_ofNat hk]
  case treadOut => exact assemble_of_not_wellFormed _ (decide_eq_false hk.not_gt)
  case word => rw [assemble_of_wellFormed (.word w.toNat) (decide_eq_true w.isLt), AsmLine.words,
      BitVec.ofNat_toNat, BitVec.setWidth_eq]
  case wordOut => exact assemble_of_not_wellFormed _ (decide_eq_false hw.not_gt)

/-! ### The pseudo-instructions over a list of operands (R78) -/

theorem byteWords_operands {vs : List AsmOperand} (h : ∀ v ∈ vs, v.wellFormed = true) :
    byteWords (vs.map AsmOperand.byte) = vs.map fun v => 0x20000000#32 ||| BitVec.ofNat 32 v.number := by
  rw [byteWords, List.map_map]
  exact List.map_congr_left fun v hv => encode_byte_operand (h v hv)

theorem assemble_bytesList {vs : List AsmOperand} (h : ∀ v ∈ vs, v.wellFormed = true) :
    assemble (.bytesList vs) = some (vs.map fun v => 0x20000000#32 ||| BitVec.ofNat 32 v.number) := by
  rw [assemble_of_wellFormed (.bytesList vs) (List.all_eq_true.2 h), AsmLine.words, byteWords_operands h]

theorem assemble_crcList {vs : List AsmOperand} (h : ∀ v ∈ vs, v.wellFormed = true) (hl : vs.length < 2 ^ 28) :
    assemble (.crcList vs) =
      some ((0x10000000#32 ||| BitVec.ofNat 32 vs.length) ::
        ((vs.map fun v => 0x20000000#32 ||| BitVec.ofNat 32 v.number) ++ [0x30000000#32])) := by
  have hw : (AsmLine.crcList vs).wellFormed = true := by
    simpa [AsmLine.wellFormed] using ⟨hl, h⟩
  rw [assemble_of_wellFormed (.crcList vs) hw, AsmLine.words, crcWords, byteWords_operands h, List.length_map,
    encode_start_ofNat hl]
  rfl

theorem assemble_list_of_operand_out_of_range {vs : List AsmOperand} (h : ∃ v ∈ vs, v.wellFormed = false) :
    assemble (.bytesList vs) = none ∧ assemble (.crcList vs) = none := by
  have hall : vs.all AsmOperand.wellFormed = false := List.all_eq_false.2 (by simpa using h)
  exact ⟨assemble_of_not_wellFormed _ hall, assemble_of_not_wellFormed _ (by simp [AsmLine.wellFormed, hall])⟩

theorem assemble_crcList_too_long {vs : List AsmOperand} (h : 2 ^ 28 ≤ vs.length) : assemble (.crcList vs) = none :=
  assemble_of_not_wellFormed _ (by rw [AsmLine.wellFormed, decide_eq_false h.not_gt, Bool.false_and])

/-! ### A text is the list of its quoted characters (R78) -/

theorem textBytes_eq_quoted (s : List Char) : textBytes s = (s.map AsmOperand.quoted).map AsmOperand.byte := by
  rw [List.map_map]; rfl

theorem all_asciiOk_eq_quoted (s : List Char) : s.all asciiOk = (s.map AsmOperand.quoted).all AsmOperand.wellFormed := by
  rw [List.all_map]; rfl

theorem assemble_bytesText_eq (s : List Char) : assemble (.bytesText s) = assemble (.bytesList (s.map .quoted)) :=
  assemble_congr (all_asciiOk_eq_quoted s) (congrArg byteWords (textBytes_eq_quoted s))

theorem assemble_crcText_eq (s : List Char) : assemble (.crcText s) = assemble (.crcList (s.map .quoted)) :=
  assemble_congr (by rw [AsmLine.wellFormed, AsmLine.wellFormed, all_asciiOk_eq_quoted, List.length_map])
    (congrArg crcWords (textBytes_eq_quoted s))

theorem quoted_wellFormed {s : List Char} (h : ∀ c ∈ s, c.toNat ≤ 127) :
    ∀ v ∈ s.map AsmOperand.quoted, v.wellFormed = true :=
  List.forall_mem_map.2 fun c hc => decide_eq_true (h c hc)

/-- Settles O7: the clauses over a list of operands by their lemmas, those over a text as over the list of its characters. -/
theorem pseudoInstructionsExpand : Obligations.PseudoInstructionsExpand := by
  refine ⟨fun s hs => ?bytesText, fun s hs hl => ?crcText, fun s hs => ?textOut, fun vs hv => ?bytesList,
    fun vs hv hl => ?crcList, fun vs hv => ?listOut, fun n => rfl, fun c => rfl, rfl, fun s hl => ?crcTextLong,
    fun vs hl => assemble_crcList_too_long hl⟩
  case bytesText =>
    rw [assemble_bytesText_eq, assemble_bytesList (quoted_wellFormed hs), List.map_map]
    rfl
  case crcText =>
    rw [assemble_crcText_eq, assemble_crcList (quoted_wellFormed hs) (by simpa using hl), List.map_map, List.length_map]
    rfl
  case textOut =>
    obtain ⟨c, hc, hout⟩ := hs
    rw [assemble_bytesText_eq, assemble_crcText_eq]
    exact assemble_list_of_operand_out_of_range ⟨.quoted c, List.mem_map_of_mem hc, decide_eq_false hout.not_ge⟩
  case bytesList => exact assemble_bytesList fun v hm => v.wellFormed_iff.2 (hv v hm)
  case crcList => exact assemble_crcList (fun v hm => v.wellFormed_iff.2 (hv v hm)) hl
  case listOut =>
    obtain ⟨v, hm, hout⟩ := hv
    exact assemble_list_of_operand_out_of_range ⟨v, hm, v.wellFormed_eq_false_iff.2 hout⟩
  case crcTextLong =>
    rw [assemble_crcText_eq]
    exact assemble_crcList_too_long (by simpa using hl)

end Sys2Proof
end

section
/-! `GenEntry` (40_table_generator.md R100, R101, R107): linear over XOR because each of its eight steps is, and its listed
values; O25 and O26. -/

namespace Sys2Proof.Machine

/-- One step as a shift and the word XORed on, which the top bit chooses (R101). -/
theorem reduceStep_eq_xor_ite (r : Word) :
    reduceStep r = shl1 r ^^^ (if r.getLsbD 31 then Config.poly else 0#32) := by
  unfold reduceStep
  split <;> simp

theorem shl1_xor (a b : Word) : shl1 (a ^^^ b) = shl1 a ^^^ shl1 b := BitVec.shiftLeft_xor_distrib a b 1

/-- A word chosen by a bit is additive in that bit: chosen twice, it cancels. -/
theorem ite_xor_bits (x y : Bool) (p : Word) :
    (if x ^^ y then p else 0#32) = (if x then p else 0#32) ^^^ (if y then p else 0#32) := by
  cases x <;> cases y <;> simp

theorem reduceStep_xor (a b : Word) : reduceStep (a ^^^ b) = reduceStep a ^^^ reduceStep b := by
  simp only [reduceStep_eq_xor_ite, shl1_xor, BitVec.getLsbD_xor, ite_xor_bits]
  ac_rfl

theorem reduce8_xor (a b : Word) : reduce8 (a ^^^ b) = reduce8 a ^^^ reduce8 b :=
  Function.Semiconj₂.iterate (op := (· ^^^ ·)) reduceStep_xor 8 a b

theorem inTopByte_xor (i j : Byte) : inTopByte (i ^^^ j) = inTopByte i ^^^ inTopByte j := by
  simp [inTopByte, zext32, BitVec.shiftLeft_xor_distrib]

theorem genEntry_xor (i j : Byte) : genEntry (i ^^^ j) = genEntry i ^^^ genEntry j := by
  simp only [genEntry, inTopByte_xor, reduce8_xor]

/-- Settles O25, by evaluating `GenEntry` at the ten listed indices. -/
theorem genEntryKnownValues : Obligations.GenEntryKnownValues := by
  unfold Obligations.GenEntryKnownValues
  decide

/-- Settles O26: linearity through the eight steps, and the basis entries as listed in O25. -/
theorem genEntryIsLinear : Obligations.GenEntryIsLinear := by
  obtain ⟨h0, h1, h2, h4, h8, h10, h20, h40, h80, -⟩ := genEntryKnownValues
  exact ⟨genEntry_xor, h0, h1, h2, h4, h8, h10, h20, h40, h80⟩

end Sys2Proof.Machine
end

section
/-! GEN's turns (40_table_generator.md R102, R103, R105): the entry each writes, the build they complete, and that the table is
written by nothing else; O35, O36 and O37. -/

namespace Sys2Proof.Machine

/-! ### One turn of GEN (R102) -/

theorem State.genTurn_of_lt {s : State} (h : s.gidx.toNat < Config.nTbl) : s.genTurn = s.genWrite :=
  if_pos (s.genEnabled_iff.2 h)

theorem State.genTurn_of_ge {s : State} (h : Config.nTbl ≤ s.gidx.toNat) : s.genTurn = s :=
  if_neg fun hen => Nat.not_lt_of_le h (s.genEnabled_iff.1 hen)

/-- `TRDY` is set on the last entry's step and on no other. -/
theorem State.genWrite_trdy_of_lt {s : State} (h : s.gidx.toNat < Config.nTbl) :
    s.genWrite.trdy = if s.gidx.toNat = 255 then true else s.trdy := by
  have hlast : s.gidx + 1#9 = 256#9 ↔ s.gidx.toNat = 255 := by
    rw [← BitVec.toNat_inj, toNat_gidx_succ h]
    simp
  simp only [State.genWrite_trdy, hlast]

/-- Taking GEN's turn changes no entry but entry `GIDX`. -/
theorem State.takeMove_genWrite_tblRead_other {s : State} {i : Byte} (h : i.toNat ≠ s.gidx.toNat) :
    s.takeMove.genWrite.tblRead i = s.tblRead i := by
  rw [State.genWrite_tblRead_other (by rwa [State.takeMove_gidx]), State.tblRead, State.takeMove_tbl, State.tblRead]

/-- Settles O35: the step is `State.genWrite` below 256 and a hold from there on. -/
theorem genStepWritesNextEntry : Obligations.GenStepWritesNextEntry := by
  refine ⟨fun s hm hr hg => ?write, fun s hm hr hg => ?hold⟩
  case write =>
    have hg' : s.takeMove.gidx.toNat < Config.nTbl := by rwa [State.takeMove_gidx]
    have hi : (s.gidx.setWidth 8).toNat = s.takeMove.gidx.toNat := by simpa using hg
    refine ⟨s.takeMove.genWrite, ?_, State.genWrite_tblRead_same hi,
      fun _ => State.takeMove_genWrite_tblRead_other, ?_, ?_, rfl⟩
    · rw [step_of_gen hm hr, State.genTurn_of_lt hg']
    · simpa using toNat_gidx_succ hg
    · simpa using State.genWrite_trdy_of_lt hg'
  case hold =>
    rw [step_of_gen hm hr, State.genTurn_of_ge (by rwa [State.takeMove_gidx])]

/-! ### The whole build (R105, R242) -/

/-- A turn of GEN does not change what the table is completed to. -/
theorem State.genTurn_built (s : State) : s.genTurn.built = s.built := by
  unfold State.genTurn
  split <;> rfl

theorem State.genTurn_gidx_of_lt {s : State} (h : s.gidx.toNat < Config.nTbl) :
    s.genTurn.gidx.toNat = s.gidx.toNat + 1 := by
  rw [State.genTurn_of_lt h]
  exact toNat_gidx_succ h

/-- As many turns of GEN as entries are missing complete the table, by induction on the missing entries. -/
theorem State.TableInv.runSteps_gen_eq_built {s : State} {n : Nat} {rest : List Move} (h : s.TableInv)
    (hr : s.resetDone = true) (hn : s.gidx.toNat + n = Config.nTbl)
    (hs : s.schedule = List.replicate n .gen ++ rest) :
    runSteps n s = .next { s.built with schedule := rest } := by
  induction n generalizing s with
  | zero =>
    obtain rfl : s.schedule = rest := hs
    rw [h.built_eq hn, runSteps_zero]
  | succ n ih =>
    have hlt : s.takeMove.gidx.toNat < Config.nTbl := by rw [State.takeMove_gidx]; omega
    have htm : s.takeMove = { s with schedule := List.replicate n .gen ++ rest } :=
      State.takeMove_of_schedule_cons hs
    have hT : s.takeMove.TableInv := h.of_eq
    rw [runSteps_succ (step_of_gen (State.nextMove_of_schedule_cons hs) hr),
      ih hT.genTurn (by simpa using hr) (by rw [State.genTurn_gidx_of_lt hlt, State.takeMove_gidx]; omega)
        (by simp [htm]), State.genTurn_built, htm]
    rfl

/-- Settles O36: the state the build ends in is `State.built`, whose every field is known. -/
theorem buildCompletesInRemainingSteps : Obligations.BuildCompletesInRemainingSteps := by
  intro s rest hi hr hs
  obtain ⟨-, ht, -, -⟩ := s.inv_iff.1 hi
  refine ⟨_, ht.runSteps_gen_eq_built hr (Nat.add_sub_of_le ht.gidxLe) hs, builtTable_read, rfl, rfl, rfl, fun hq => ?_⟩
  exact (State.cmdReady_iff _ _).2 ⟨rfl, hq, rfl⟩

/-! ### Nothing else writes the table (R103) -/

/-- A step that changes the table is a turn of GEN that has a step, or a reset. -/
theorem step_cases_of_tbl_ne {s t : State} (h : step s = .next t) (hne : t.tbl ≠ s.tbl) :
    (s.nextMove = .gen ∧ s.gidx.toNat < Config.nTbl ∧ t = s.takeMove.genWrite) ∨
      (s.nextMove = .reset ∧ t = s.takeMove.resetBlock) := by
  rcases step_cases h with ⟨hm, -, rfl⟩ | ⟨-, -, w, -, -, hp⟩ | ⟨-, -, -, rfl⟩ | ⟨-, -, rfl⟩ | ⟨hm, rfl⟩
  · rcases Nat.lt_or_ge s.takeMove.gidx.toNat Config.nTbl with hg | hg
    · exact .inl ⟨hm, by simpa using hg, State.genTurn_of_lt hg⟩
    · exact absurd (by simp [State.genTurn_of_ge hg]) hne
  · exact absurd (by simp [(perform_sameTableAndHost hp).tbl]) hne
  · exact absurd s.takeMove_tbl hne
  · exact absurd (by simp) hne
  · exact .inr ⟨hm, rfl⟩

/-- Settles O37: of the two steps that change the table, GEN's writes entry `GIDX` alone, and reset empties it. -/
theorem tableWrittenOnlyByGenAndReset : Obligations.TableWrittenOnlyByGenAndReset := by
  intro s t h hne
  rcases step_cases_of_tbl_ne h hne with ⟨hm, hg, rfl⟩ | ⟨hm, rfl⟩
  · exact .inl ⟨hm, hg, by simpa using toNat_gidx_succ hg, fun _ => State.takeMove_genWrite_tblRead_other,
      fun hinv i hi => hinv.unwritten i hi.ge⟩
  · exact .inr ⟨hm, rfl⟩

end Sys2Proof.Machine
end

section
/-! The fault of an unwritten entry (40_table_generator.md R104): which reads stop with it, and that under the invariant no
step does (70_reset_and_hazards.md R251); O16 and O49. -/

namespace Sys2Proof.Machine

/-! ### The reads that fault -/

theorem execTread_of_unwritten {s : State} {i : Byte} (h : s.tblRead i = none) :
    execTread i s = .fault (.tableUnwritten i) := by
  simp [execTread, h]

theorem execByte_of_unwritten {s : State} {b : Byte} (ha : s.sst = .active) (hc : s.cnt ≠ s.len)
    (h : s.tblRead (tableIndex s.acc b) = none) :
    execByte b s = .fault (.tableUnwritten (tableIndex s.acc b)) := by
  simp [execByte, ha, hc, h]

/-- Settles O16, by the two reads' lemmas. -/
theorem unwrittenEntryReadFaults : Obligations.UnwrittenEntryReadFaults :=
  ⟨fun _ _ h => execTread_of_unwritten h, fun _ _ ha hc h => execByte_of_unwritten ha hc h⟩

/-! ### With the table built no command faults -/

theorem execByte_answers_of_tableBuilt {s : State} (h : s.TableBuilt) (b : Byte) : ∃ t, execByte b s = .next t := by
  unfold execByte
  split
  next => exact ⟨_, rfl⟩
  next => exact ⟨_, rfl⟩
  next =>
    rw [h]
    split <;> exact ⟨_, rfl⟩

theorem exec_answers_of_tableBuilt {s : State} (h : s.TableBuilt) (i : Instr) : ∃ t, exec i s = .next t := by
  cases i with
  | byte b => exact execByte_answers_of_tableBuilt h b
  | tread k => exact ⟨_, execTread_of_tblRead (h k)⟩
  | nop | start | finish | status | remain => exact ⟨_, rfl⟩

theorem perform_answers_of_tableBuilt {s : State} (h : s.TableBuilt) (w : Word) : ∃ t, perform w s = .next t := by
  cases hd : decode w with
  | ok i => rw [perform_of_ok hd]; exact exec_answers_of_tableBuilt h i
  | error e => exact ⟨_, perform_of_illegal hd s⟩

/-! ### The port is ready only with the table built (R105) -/

theorem State.TableInv.tableBuilt {s : State} (h : s.TableInv) (hr : s.trdy = true) : s.TableBuilt :=
  fun i => h.written i (h.readyIff.1 hr ▸ i.isLt)

/-- ENG's turn reads the table only through a ready port, so under the table's invariant it always answers. -/
theorem State.TableInv.engTurn_answers {s : State} (h : s.TableInv) : ∃ t, engTurn s = .next t := by
  cases hen : s.engEnabled with
  | false => exact ⟨_, engTurn_of_not_enabled hen⟩
  | true =>
    obtain ⟨w, ho, hc⟩ := (engEnabled_iff s).1 hen
    obtain ⟨hr, -, -⟩ := (s.cmdReady_iff false).1 hc
    rw [engTurn_of_ready ho hc]
    exact perform_answers_of_tableBuilt (s := s.advancePos) (h.tableBuilt hr) w

theorem eq_fault_of_afterReset {s : State} {o : Host.Outcome State Fault Refusal} {f : Fault}
    (h : s.afterReset o = .fault f) : o = .fault f := by
  unfold State.afterReset at h
  split at h
  next => exact h
  next => cases h

/-- Only ENG's turn can fault. -/
theorem engTurn_of_step_fault {s : State} {f : Fault} (h : step s = .fault f) : engTurn s.takeMove = .fault f := by
  unfold step runMove at h
  split at h
  next => cases eq_fault_of_afterReset h
  next => exact eq_fault_of_afterReset h
  next => cases eq_fault_of_afterReset h
  next => cases h

/-- Settles O49: only ENG's turn can fault, and under the invariant it answers. -/
theorem noStepFaultsUnderTheInvariant : Obligations.NoStepFaultsUnderTheInvariant := by
  intro s hi f hf
  obtain ⟨-, htb, -, -⟩ := s.takeMove.inv_iff.1 hi.takeMove
  obtain ⟨t, ht⟩ := htb.engTurn_answers
  cases ht.symm.trans (engTurn_of_step_fault hf)

end Sys2Proof.Machine
end

section
/-! Session control (41_session_control.md R120 to R122, R124): the record FINISH pushes in each session state, BYTE by session
state, and the lifecycle table; O8, O9, O10, O20 and O24. -/

namespace Sys2Proof.Machine

/-! ### NOP and START -/

/-- Settles O8: NOP writes nothing by its definition; its reserved field must be 0 (R76); a full queue holds every word (R53). -/
theorem nopWritesNothing : Obligations.NopWritesNothing := by
  refine ⟨fun _ => rfl, rfl, fun w ho hl => ?illegal, fun s hm hr _ hq => ?held⟩
  case illegal => exact (exists_decode_error_iff w).2 (.inr (.inl ⟨.inl ho, hl⟩))
  case held => exact engHoldsUnlessReady.2 s hm hr (.inr (.inl (Nat.le_of_eq hq.symm)))

/-- Settles O9: the state by what `State.openSession` writes, the word by `encode_start_eq_or`. -/
theorem startOpensSession : Obligations.StartOpensSession := ⟨fun _ _ => rfl, encode_start_eq_or⟩

/-! ### The record of FINISH (R122) -/

theorem State.finishRecord_of_exact {s : State} (ha : s.sst = .active) (hc : s.cnt = s.len) :
    s.finishRecord = ⟨.crc, s.acc⟩ := if_pos ⟨ha, hc⟩

theorem State.finishRecord_of_underrun {s : State} (ha : s.sst = .active) (hc : s.cnt ≠ s.len) :
    s.finishRecord = ⟨.error, 4#32⟩ := by
  simp [State.finishRecord, ha, hc, zext32, ErrCode.code]

theorem State.finishRecord_of_error {s : State} (he : s.sst = .error) :
    s.finishRecord = ⟨.error, s.err.setWidth 32⟩ := by
  simp [State.finishRecord, he, zext32]

theorem State.finishRecord_of_idle {s : State} (hi : s.sst = .idle) : s.finishRecord = ⟨.error, 2#32⟩ := by
  simp [State.finishRecord, hi, zext32, ErrCode.code]

theorem State.finishRecord_eq_crc_iff {s : State} {d : Word} :
    s.finishRecord = ⟨.crc, d⟩ ↔ s.sst = .active ∧ s.cnt = s.len ∧ d = s.acc := by
  cases hs : s.sst with
  | idle => simp [State.finishRecord_of_idle hs]
  | error => simp [State.finishRecord_of_error hs]
  | active =>
    by_cases hc : s.cnt = s.len
    · simp [State.finishRecord_of_exact hs hc, hc, eq_comm]
    · simp [State.finishRecord_of_underrun hs hc, hc]

@[simp] theorem State.finishedWith_rspq (s : State) (r : Record) : (s.finishedWith r).rspq = s.rspq ++ [r] := rfl

/-- FINISH answers in every state: its one record at the tail and the session cleared. -/
theorem exec_finish (s : State) : exec .finish s = .next (s.finishedWith s.finishRecord) := rfl

/-- Settles O10: `exec_finish` with the record of each session state; a ready port has the record's slot (R53). -/
theorem finishReportsAndClears : Obligations.FinishReportsAndClears := by
  refine ⟨fun s ha hc => ?_, fun s ha hc => ?_, fun s he => ?_, fun s hi => ?_, fun s t hready h => ?slot, rfl⟩
  · rw [exec_finish, State.finishRecord_of_exact ha hc]
  · rw [exec_finish, State.finishRecord_of_underrun ha hc]
  · rw [exec_finish, State.finishRecord_of_error he]
  · rw [exec_finish, State.finishRecord_of_idle hi]
  case slot =>
    cases (exec_finish s).symm.trans h
    rw [State.finishedWith_rspq, List.length_append]
    exact State.rspq_length_lt_of_cmdReady hready

/-- Settles O24: NOP, START and BYTE push nothing, a query pushes a record with tag DATA, and the record of FINISH has tag CRC
only in ACTIVE with `CNT = LEN`. -/
theorem checksumOnlyForExactLength : Obligations.ChecksumOnlyForExactLength := by
  intro i s t d h hcrc
  cases i with
  | nop | start | byte =>
    rw [exec_rspq_of_nop_start_byte h (by simp)] at hcrc
    simp at hcrc
  | tread | status | remain =>
    obtain ⟨v, rfl⟩ := exec_of_query h (by simp)
    simp at hcrc
  | finish =>
    cases (exec_finish s).symm.trans h
    rw [State.finishedWith_rspq] at hcrc
    exact ⟨rfl, State.finishRecord_eq_crc_iff.1 (List.singleton_inj.1 (List.append_cancel_left hcrc))⟩

/-! ### BYTE by session state (R140) -/

theorem execByte_of_idle {s : State} (hi : s.sst = .idle) (b : Byte) :
    execByte b s = .next (s.raiseErr .noSession) := by
  simp [execByte, hi]

theorem execByte_of_error {s : State} (he : s.sst = .error) (b : Byte) : execByte b s = .next s := by
  simp [execByte, he]

theorem execByte_of_overrun {s : State} (ha : s.sst = .active) (hc : s.cnt = s.len) (b : Byte) :
    execByte b s = .next (s.raiseErr .overrun) := by
  simp [execByte, ha, hc]

/-- With an open session below its length, a BYTE that answers a next state read a written entry and accumulated it. -/
theorem eq_accumulate_of_execByte {s t : State} {b : Byte} (ha : s.sst = .active) (hc : s.cnt ≠ s.len)
    (h : execByte b s = .next t) :
    ∃ v, s.tblRead (tableIndex s.acc b) = some v ∧ t = s.accumulate (updWith s.acc v) := by
  rcases execByte_cases h with ⟨hi, -⟩ | ⟨he, -⟩ | ⟨-, hl, -⟩ | ⟨-, -, hv⟩
  · cases ha.symm.trans hi
  · cases ha.symm.trans he
  · exact absurd hl hc
  · exact hv

/-! ### The lifecycle table (R124) -/

/-- Settles O20, cell by cell: START and FINISH by what they write, BYTE by its session state, and NOP and the queries because
they write no register of the session. -/
theorem sessionLifecycleTable : Obligations.SessionLifecycleTable := by
  intro i s t h
  refine ⟨?start, ?byteIdle, ?byteBelow, ?byteFull, ?byteError, ?finish, ?keep⟩
  case start =>
    rintro n rfl
    cases h
    exact ⟨rfl, rfl, rfl, rfl, rfl⟩
  case byteIdle =>
    rintro b rfl hi
    cases (execByte_of_idle hi b).symm.trans h
    simp [State.raiseErr_err, hi, ErrCode.code]
  case byteBelow =>
    rintro b rfl ha hlt
    have hne : s.cnt ≠ s.len := fun he => Nat.ne_of_lt hlt (congrArg BitVec.toNat he)
    obtain ⟨v, hv, rfl⟩ := eq_accumulate_of_execByte ha hne h
    obtain ⟨hexact, hsucc⟩ := cntPlusOne_of_lt hlt s.len
    exact ⟨ha, by rw [State.accumulate_cnt, hexact, hsucc], rfl, v, hv, rfl⟩
  case byteFull =>
    rintro b rfl ha hc
    cases (execByte_of_overrun ha hc b).symm.trans h
    simp [State.raiseErr_err, ha, ErrCode.code]
  case byteError =>
    rintro b rfl he
    cases (execByte_of_error he b).symm.trans h
    rfl
  case finish =>
    rintro rfl
    cases (exec_finish s).symm.trans h
    refine ⟨rfl, fun hi => ?_, fun ha hc => ?_, fun ha hc => ?_, fun he => ?_⟩
    · rw [State.finishedWith_rspq, State.finishRecord_of_idle hi]
    · rw [State.finishedWith_rspq, State.finishRecord_of_exact ha hc]
    · rw [State.finishedWith_rspq, State.finishRecord_of_underrun ha hc]
    · rw [State.finishedWith_rspq, State.finishRecord_of_error he]
  case keep =>
    rintro (rfl | hq)
    · cases h
      rfl
    · obtain ⟨d, rfl⟩ := exec_of_query h hq
      rfl

end Sys2Proof.Machine
end

section
/-! The update step and the laws of the checksum (42_accumulate.md R141, R144 to R146); O27 to O33.

The idea: one update by the table is eight reduction steps on the accumulator with the byte XORed into its top (R144). So an
update is linear over XOR, which gives the laws of R145, and one-to-one in the accumulator and in the byte, which gives R146. -/

namespace Sys2Proof.Machine

/-! ### The top byte -/

theorem topByte_xor (a b : Word) : topByte (a ^^^ b) = topByte a ^^^ topByte b := BitVec.extractLsb'_xor

/-- A left shift moves a lower byte to the top. -/
theorem topByte_shiftLeft (c : Word) {n : Nat} (hn : n ≤ 24) : topByte (c <<< n) = c.extractLsb' (24 - n) 8 := by
  refine BitVec.eq_of_getLsbD_eq fun i hi => ?_
  have hin : 24 + i < 32 := by omega
  have hout : ¬24 + i < n := by omega
  rw [topByte, BitVec.getLsbD_extractLsb', BitVec.getLsbD_extractLsb', BitVec.getLsbD_shiftLeft, decide_eq_true hin,
    decide_eq_false hout, Nat.sub_add_comm hn, Bool.not_false, Bool.true_and, Bool.true_and]

theorem topByte_inTopByte (b : Byte) : topByte (inTopByte b) = b := by
  rw [inTopByte, topByte_shiftLeft _ (Nat.le_refl 24), Nat.sub_self, zext32,
    BitVec.extractLsb'_setWidth_of_le (by decide), BitVec.extractLsb'_eq_self]

theorem shl8_xor (a b : Word) : shl8 (a ^^^ b) = shl8 a ^^^ shl8 b := BitVec.shiftLeft_xor_distrib a b 8

/-- The shift of an update drops the top byte. -/
theorem shl8_inTopByte (b : Byte) : shl8 (inTopByte b) = 0#32 := by
  rw [shl8, inTopByte, ← BitVec.shiftLeft_add]
  exact BitVec.shiftLeft_eq_zero (by decide)

theorem genEntry_zero : genEntry 0#8 = 0#32 := genEntryKnownValues.1

/-! ### An update as eight reduction steps (R144) -/

theorem reduceStep_of_top_clear {r : Word} (h : r.getLsbD 31 = false) : reduceStep r = shl1 r := by
  rw [reduceStep, if_neg (by rw [h]; exact Bool.false_ne_true)]

/-- While no set bit reaches the top, the reduction only shifts. -/
theorem reduceStep_iterate_of_clear {r : Word} {n : Nat} (h : ∀ i, 32 - n ≤ i → r.getLsbD i = false) :
    reduceStep^[n] r = r <<< n := by
  induction n with
  | zero => simp
  | succ n ih =>
    have htop : (r <<< n).getLsbD 31 = false := by
      rw [BitVec.getLsbD_shiftLeft, h (31 - n) (by omega), Bool.and_false]
    rw [Function.iterate_succ_apply', ih fun i hi => h i (by omega), reduceStep_of_top_clear htop, shl1,
      ← BitVec.shiftLeft_add]

theorem reduce8_of_topByte_zero {r : Word} (h : topByte r = 0#8) : reduce8 r = shl8 r := by
  refine reduceStep_iterate_of_clear fun i hi => ?_
  rcases Nat.lt_or_ge i 32 with hi' | hi'
  · have hbit : (topByte r).getLsbD (i - 24) = false := by rw [h, BitVec.getLsbD_zero]
    simpa [topByte, show i - 24 < 8 by omega, Nat.add_sub_of_le hi] using hbit
  · exact BitVec.getLsbD_of_ge r i hi'

/-- R144: by linearity the low 24 bits of the accumulator only shift and the top byte reduces as `GenEntry` does. -/
theorem upd_eq_updBitwise (acc : Word) (b : Byte) : upd acc b = updBitwise acc b := by
  have hsplit : acc ^^^ inTopByte b = (acc ^^^ inTopByte (topByte acc)) ^^^ inTopByte (tableIndex acc b) := by
    rw [tableIndex, inTopByte_xor, BitVec.xor_assoc, ← BitVec.xor_assoc (inTopByte _), BitVec.xor_self,
      BitVec.zero_xor]
  have hlow : reduce8 (acc ^^^ inTopByte (topByte acc)) = shl8 acc := by
    rw [reduce8_of_topByte_zero (by rw [topByte_xor, topByte_inTopByte, BitVec.xor_self]), shl8_xor, shl8_inTopByte,
      BitVec.xor_zero]
  rw [updBitwise, hsplit, reduce8_xor, hlow, upd, updWith, genEntry]

/-- Settles O27: the two checksums fold equal update functions from the same start. -/
theorem bitwiseChecksumEqualsTableDriven : Obligations.BitwiseChecksumEqualsTableDriven := by
  intro bs
  rw [crc32, funext₂ upd_eq_updBitwise]
  rfl

/-! ### Linearity (R145) -/

theorem upd_xor (a a' : Word) (b b' : Byte) : upd (a ^^^ a') (b ^^^ b') = upd a b ^^^ upd a' b' := by
  simp only [upd_eq_updBitwise, updBitwise, inTopByte_xor, reduce8_xor]
  ac_rfl

theorem upd_zero_left (b : Byte) : upd 0#32 b = genEntry b := by
  rw [upd_eq_updBitwise, updBitwise, BitVec.zero_xor, genEntry]

theorem foldl_upd_xor {as bs : List Byte} (h : as.length = bs.length) (a b : Word) :
    (List.zipWith (· ^^^ ·) as bs).foldl upd (a ^^^ b) = as.foldl upd a ^^^ bs.foldl upd b := by
  induction as generalizing bs a b with
  | nil => obtain rfl : bs = [] := List.length_eq_zero_iff.1 h.symm; rfl
  | cons x as ih =>
    obtain ⟨y, bs, rfl⟩ := List.exists_cons_of_length_eq_add_one h.symm
    rw [List.zipWith_cons_cons, List.foldl_cons, upd_xor, ih (Nat.succ.inj h), List.foldl_cons, List.foldl_cons]

/-- Settles O29: the update from 0 is the entry. -/
theorem singleByteChecksumIsEntry : Obligations.SingleByteChecksumIsEntry := upd_zero_left

/-- Settles O30: `foldl_upd_xor` from the initial accumulator, which is its own XOR with itself. -/
theorem checksumIsLinear : Obligations.ChecksumIsLinear := fun _ _ h => foldl_upd_xor h Config.init Config.init

/-- Zero bytes leave the initial accumulator. -/
theorem crc32_replicate_zero (n : Nat) : crc32 (List.replicate n 0#8) = 0#32 := by
  induction n with
  | zero => rfl
  | succ n ih => rw [List.replicate_succ', crc32_append_singleton, ih, upd_zero_left, genEntry_zero]

theorem crc32_append (as bs : List Byte) : crc32 (as ++ bs) = bs.foldl upd (crc32 as) := List.foldl_append

/-- Settles O28: the zero bytes leave the accumulator where the other bytes start. -/
theorem leadingZeroBytesInvisible : Obligations.LeadingZeroBytesInvisible :=
  fun n bs => ⟨by rw [crc32_append, crc32_replicate_zero]; rfl, crc32_replicate_zero n⟩

/-- What the bytes do to an accumulator is what as many zero bytes do to it, XORed with the bytes' own checksum. -/
theorem foldl_upd_eq_xor_crc32 (acc : Word) (bs : List Byte) :
    bs.foldl upd acc = (List.replicate bs.length 0#8).foldl upd acc ^^^ crc32 bs := by
  have hz : List.zipWith (· ^^^ ·) (List.replicate bs.length 0#8) bs = bs :=
    List.ext_getElem (by simp) fun i _ _ => by simp
  rw [crc32, ← foldl_upd_xor List.length_replicate, hz, Config.init, BitVec.xor_zero]

/-- Settles O31: the law by `foldl_upd_eq_xor_crc32` from the first buffer's checksum; the naive law fails for the buffer of
one byte 1 followed by itself, whose checksum would be 0. -/
theorem checksumOfConcatenation : Obligations.ChecksumOfConcatenation :=
  ⟨fun as bs => by rw [crc32_append, crc32_append, ← foldl_upd_eq_xor_crc32], [1#8], [1#8], by decide⟩

/-! ### A buffer's own checksum appended (R145 law 6) -/

/-- A byte equal to the top byte has index 0, so it only shifts (R141). -/
theorem upd_topByte (acc : Word) : upd acc (topByte acc) = shl8 acc := by
  rw [upd, tableIndex, BitVec.xor_self, genEntry_zero, updWith, BitVec.xor_zero]

/-- The accumulator shifted by `n` bits, updated with its own top byte, is shifted by 8 more. -/
theorem upd_extract_shiftLeft (c : Word) {n : Nat} (hn : n ≤ 24) :
    upd (c <<< n) (c.extractLsb' (24 - n) 8) = c <<< (n + 8) := by
  rw [← topByte_shiftLeft c hn, upd_topByte, shl8, BitVec.shiftLeft_add]

/-- The accumulator's own bytes, top byte first, shift it out. -/
theorem foldl_upd_own_bytes (c : Word) :
    [c.extractLsb' 24 8, c.extractLsb' 16 8, c.extractLsb' 8 8, c.extractLsb' 0 8].foldl upd c = 0#32 := by
  have h0 : upd c (c.extractLsb' 24 8) = c <<< 8 := upd_topByte c
  have h1 : upd (c <<< 8) (c.extractLsb' 16 8) = c <<< 16 := upd_extract_shiftLeft c (n := 8) (by decide)
  have h2 : upd (c <<< 16) (c.extractLsb' 8 8) = c <<< 24 := upd_extract_shiftLeft c (n := 16) (by decide)
  have h3 : upd (c <<< 24) (c.extractLsb' 0 8) = c <<< 32 := upd_extract_shiftLeft c (n := 24) (by decide)
  simp only [List.foldl_cons, List.foldl_nil, h0, h1, h2, h3]
  exact BitVec.shiftLeft_eq_zero (Nat.le_refl 32)

/-- Settles O32: the four updates start from the accumulator that the four bytes are. -/
theorem appendedChecksumGivesZero : Obligations.AppendedChecksumGivesZero :=
  fun bs => by rw [crc32_append, foldl_upd_own_bytes]

/-! ### One byte changed (R146) -/

/-- The top bit of a word shows in the lowest bit of its reduction, because the lowest bit of `POLY` is 1. -/
theorem reduceStep_getLsbD_zero (r : Word) : (reduceStep r).getLsbD 0 = r.getLsbD 31 := by
  unfold reduceStep
  split
  next h => rw [h]; simp [shl1, Config.poly]
  next h => rw [Bool.eq_false_iff.2 h]; simp [shl1]

theorem eq_zero_of_reduceStep_eq_zero {r : Word} (h : reduceStep r = 0#32) : r = 0#32 := by
  have htop : r.getLsbD 31 = false := by rw [← reduceStep_getLsbD_zero, h, BitVec.getLsbD_zero]
  rw [reduceStep_of_top_clear htop] at h
  refine BitVec.eq_of_getLsbD_eq fun i hi => ?_
  rw [BitVec.getLsbD_zero]
  rcases Nat.lt_or_eq_of_le (Nat.le_of_lt_succ hi) with hlt | rfl
  · have hnext : (shl1 r).getLsbD (i + 1) = false := by rw [h, BitVec.getLsbD_zero]
    simpa [shl1, hi, Nat.succ_lt_succ hlt] using hnext
  · exact htop

theorem reduceStep_injective : Function.Injective reduceStep := by
  intro a b h
  rw [← BitVec.xor_eq_zero_iff] at h ⊢
  rw [← reduceStep_xor] at h
  exact eq_zero_of_reduceStep_eq_zero h

theorem reduce8_injective : Function.Injective reduce8 := reduceStep_injective.iterate 8

theorem upd_left_injective (b : Byte) : Function.Injective (upd · b) := by
  intro a a' h
  simp only [upd_eq_updBitwise] at h
  exact (BitVec.xor_left_inj _).1 (reduce8_injective h)

theorem upd_right_injective (acc : Word) : Function.Injective (upd acc) := by
  intro b b' h
  simp only [upd_eq_updBitwise] at h
  exact Function.LeftInverse.injective topByte_inTopByte ((BitVec.xor_right_inj _).1 (reduce8_injective h))

theorem foldl_upd_injective (bs : List Byte) : Function.Injective (bs.foldl upd ·) := by
  induction bs with
  | nil => exact Function.injective_id
  | cons b bs ih => exact ih.comp (upd_left_injective b)

/-- The byte at a position is determined by the checksum and the other bytes. -/
theorem crc32_set_injective {bs : List Byte} {p : Nat} (hp : p < bs.length) :
    Function.Injective fun b => crc32 (bs.set p b) := by
  have hset (b : Byte) : crc32 (bs.set p b) = (bs.drop (p + 1)).foldl upd (upd (crc32 (bs.take p)) b) := by
    rw [List.set_eq_take_append_cons_drop, if_pos hp, crc32_append, List.foldl_cons]
  simp only [hset]
  exact (foldl_upd_injective _).comp (upd_right_injective _)

theorem one_shiftLeft_ne_zero : ∀ k < 8, 1#8 <<< k ≠ 0#8 := by decide

/-- Settles O33: the buffer is itself with its own byte set, and the byte with a bit inverted is another byte. -/
theorem singleBitChangeChangesChecksum : Obligations.SingleBitChangeChangesChecksum := by
  intro bs p hp k hk h
  have hbyte : bs[p] ^^^ (1#8 <<< k) = bs[p] := crc32_set_injective hp (by simpa using h)
  exact one_shiftLeft_ne_zero k hk (by simpa using hbyte)

end Sys2Proof.Machine
end

section
/-! BYTE in each of its cases (42_accumulate.md R140); O11. -/

namespace Sys2Proof.Machine

/-- `CNT + 1` is exact wherever it fits 28 bits: it is then below the greatest length (R23). -/
theorem toNat_cntPlusOne_of_fits {c : Count} (h : c.toNat + 1 < 2 ^ 28) (len : Count) :
    (cntPlusOne c len).toNat = c.toNat + 1 := by
  obtain ⟨he, hn⟩ := cntPlusOne_of_lt (cnt := c) (len := BitVec.allOnes 28) (by rw [BitVec.toNat_allOnes]; omega) len
  rw [he, hn]

/-- Settles O11: each case of BYTE by its lemma, the word by `encode_byte_eq_or`. -/
theorem byteAccumulatesOrRaises : Obligations.ByteAccumulatesOrRaises := by
  refine ⟨fun b s hi => ?idle, fun b s he => execByte_of_error he b, fun b s ha hc => ?full,
    fun b s v ha hc hv => ⟨_, execByte_accumulates ha hc hv, fun hfit => toNat_cntPlusOne_of_fits hfit _⟩,
    fun s hlt => Nat.lt_of_le_of_lt hlt s.len.isLt, encode_byte_eq_or⟩
  case idle =>
    rw [exec, execByte_of_idle hi, State.raiseErr_of_ne_error (by simp [hi])]
    rfl
  case full =>
    rw [exec, execByte_of_overrun ha hc, State.raiseErr_of_ne_error (by simp [ha])]
    rfl

end Sys2Proof.Machine
end

section
/-! What a session of START, its bytes and FINISH comes to (42_accumulate.md R143); O50 and O56.

The idea: `State.afterCommands` gives the state after each number of the session's commands in closed form, and one turn of ENG
takes each of these states to the next. A run under ENG's turns in a row walks along them, and so does `State.acceptNext`, to
which every run comes down. -/

namespace Sys2Proof.Machine

/-! ### The states of a session -/

/-- The state after START `n` and the bytes `bs`. -/
def State.inSession (s : State) (n : Count) (bs : List Byte) : State :=
  { s with
    acc := crc32 bs, len := n, cnt := BitVec.ofNat 28 bs.length, sst := .active, err := 0#4
    pos := s.pos + (bs.length + 1) }

/-- The state after START, the bytes `bs` and FINISH (R143). -/
def State.sessionDone (s : State) (bs : List Byte) : State :=
  { s with
    acc := 0#32, len := 0#28, cnt := 0#28, sst := .idle, err := 0#4
    rspq := s.rspq ++ [⟨.crc, crc32 bs⟩], pos := s.pos + (bs.length + 2) }

/-- The state after the first `k` commands of the session of `bs`. -/
def State.afterCommands (s : State) (bs : List Byte) : Nat → State
  | 0 => s
  | k + 1 => if k ≤ bs.length then s.inSession (BitVec.ofNat 28 bs.length) (bs.take k) else s.sessionDone bs

theorem State.afterCommands_succ_of_le (s : State) {bs : List Byte} {k : Nat} (hk : k ≤ bs.length) :
    s.afterCommands bs (k + 1) = s.inSession (BitVec.ofNat 28 bs.length) (bs.take k) := if_pos hk

theorem State.afterCommands_all (s : State) (bs : List Byte) : s.afterCommands bs (bs.length + 2) = s.sessionDone bs :=
  if_neg (Nat.not_succ_le_self _)

@[simp] theorem State.inSession_offered (s : State) (n : Count) (bs : List Byte) :
    (s.inSession n bs).offered = s.program[s.pos + (bs.length + 1)]? := rfl

/-! ### Each command of the session -/

/-- A BYTE of the session is one byte more: the count is below the length, and the entry read is `GenEntry` (R141). -/
theorem exec_byte_inSession {s : State} {n : Count} {bs : List Byte} (hb : s.TableBuilt) (hn : bs.length < n.toNat)
    (b : Byte) : exec (.byte b) (s.inSession n bs).advancePos = .next (s.inSession n (bs ++ [b])) := by
  have hcnt : (BitVec.ofNat 28 bs.length).toNat = bs.length := Nat.mod_eq_of_lt (Nat.lt_trans hn n.isLt)
  have hlt : (BitVec.ofNat 28 bs.length).toNat < n.toNat := by rwa [hcnt]
  have hne : BitVec.ofNat 28 bs.length ≠ n := fun he => Nat.ne_of_lt hlt (congrArg BitVec.toNat he)
  have hsucc : cntPlusOne (BitVec.ofNat 28 bs.length) n = BitVec.ofNat 28 (bs.length + 1) := by
    rw [(cntPlusOne_of_lt hlt n).1, BitVec.ofNat_add]
  have hx : exec (.byte b) (s.inSession n bs).advancePos =
      .next ((s.inSession n bs).advancePos.accumulate (upd (crc32 bs) b)) :=
    execByte_accumulates (s := (s.inSession n bs).advancePos) rfl hne (hb _)
  rw [hx]
  simp [State.accumulate, State.advancePos, State.inSession, crc32_append_singleton, hsucc, Nat.add_assoc]

/-- FINISH with every byte counted pushes the checksum (R122). -/
theorem exec_finish_inSession (s : State) (bs : List Byte) :
    exec .finish (s.inSession (BitVec.ofNat 28 bs.length) bs).advancePos = .next (s.sessionDone bs) := by
  rw [exec_finish, State.finishRecord_of_exact rfl rfl]
  rfl

/-! ### ENG's turns through the session -/

/-- The host offers the session of `bs` to a block whose table is built and whose port is ready. -/
structure State.OffersSession (s : State) (bs : List Byte) : Prop where
  built : s.TableBuilt
  ready : s.cmdReady false = true
  fits : bs.length < 2 ^ 28
  offers : (sessionCommands bs).map encode <+: s.program.drop s.pos

/-- Where a command's word is offered and the port is ready, ENG's turn is the command with the position one further. -/
theorem engTurn_of_offered_encode {s : State} {i : Instr} (ho : s.offered = some (encode i))
    (hc : s.cmdReady false = true) : engTurn s = exec i s.advancePos :=
  (engTurn_of_ready ho hc).trans (perform_of_ok (decode_encode i) _)

theorem State.OffersSession.program_getElem? {s : State} {bs : List Byte} (h : s.OffersSession bs) {k : Nat} {i : Instr}
    (hi : (sessionCommands bs)[k]? = some i) : s.program[s.pos + k]? = some (encode i) := by
  have hw : ((sessionCommands bs).map encode)[k]? = some (encode i) := by rw [List.getElem?_map, hi, Option.map_some]
  obtain ⟨rest, hrest⟩ := h.offers
  rw [← List.getElem?_drop, ← hrest, List.getElem?_append_left (List.getElem?_eq_some_iff.1 hw).1, hw]

/-- One turn of ENG performs the session's next command. -/
theorem State.OffersSession.engTurn_afterCommands {s : State} {bs : List Byte} (h : s.OffersSession bs) {k : Nat}
    (hk : k < bs.length + 2) : engTurn (s.afterCommands bs k) = .next (s.afterCommands bs (k + 1)) := by
  cases k with
  | zero =>
    have ho : s.offered = some (encode (.start (BitVec.ofNat 28 bs.length))) := h.program_getElem? (k := 0) rfl
    exact engTurn_of_offered_encode ho h.ready
  | succ k =>
    have hle : k ≤ bs.length := by omega
    rw [s.afterCommands_succ_of_le hle]
    rcases Nat.lt_or_eq_of_le hle with hlt | rfl
    · have ho : (s.inSession (BitVec.ofNat 28 bs.length) (bs.take k)).offered = some (encode (.byte bs[k])) := by
        rw [State.inSession_offered, List.length_take_of_le hle]
        exact h.program_getElem? (by simp [sessionCommands, List.getElem?_append_left, hlt])
      have hn : (bs.take k).length < (BitVec.ofNat 28 bs.length).toNat := by
        rwa [List.length_take_of_le hle, BitVec.toNat_ofNat, Nat.mod_eq_of_lt h.fits]
      rw [engTurn_of_offered_encode ho h.ready, exec_byte_inSession h.built hn, s.afterCommands_succ_of_le hlt,
        List.take_append_getElem]
    · have ho : (s.inSession (BitVec.ofNat 28 bs.length) bs).offered = some (encode .finish) :=
        h.program_getElem? (by simp [sessionCommands])
      rw [List.take_length, engTurn_of_offered_encode ho h.ready, exec_finish_inSession, s.afterCommands_all]

/-! ### ENG's turns in a row: O50 -/

/-- A settled turn of ENG, on the state that the turn used up leaves. -/
theorem step_of_schedule_eng {s : State} {ms : List Move} (hr : s.resetDone = true) (hs : s.schedule = .eng :: ms) :
    step s = engTurn { s with schedule := ms } := by
  rw [step_of_eng (State.nextMove_of_schedule_cons hs) hr, State.takeMove_of_schedule_cons hs]

/-- No command of the session touches the turns, so using up ENG's turn is the same before it as within it. -/
theorem step_afterCommands {s : State} {ms : List Move} (hr : s.resetDone = true) (hs : s.schedule = .eng :: ms)
    (bs : List Byte) (k : Nat) :
    step (s.afterCommands bs k) = engTurn (State.afterCommands { s with schedule := ms } bs k) := by
  cases k with
  | zero => exact step_of_schedule_eng hr hs
  | succ k =>
    rw [State.afterCommands, State.afterCommands]
    split
    · exact step_of_schedule_eng (s := s.inSession _ _) hr hs
    · exact step_of_schedule_eng (s := s.sessionDone bs) hr hs

/-- With the session's first `k` commands done, as many turns of ENG as commands are left finish it. -/
theorem State.OffersSession.runSteps_eng {s : State} {bs : List Byte} {turns : List Move} {j k : Nat}
    (h : s.OffersSession bs) (hr : s.resetDone = true) (hjk : k + j = bs.length + 2)
    (hs : s.schedule = List.replicate j .eng ++ turns) :
    runSteps j (s.afterCommands bs k) = .next { s.sessionDone bs with schedule := turns } := by
  induction j generalizing s k with
  | zero =>
    obtain rfl : s.schedule = turns := hs
    obtain rfl : k = bs.length + 2 := hjk
    rw [s.afterCommands_all, runSteps_zero]
    rfl
  | succ j ih =>
    have h' : State.OffersSession { s with schedule := List.replicate j .eng ++ turns } bs :=
      ⟨h.built, h.ready, h.fits, h.offers⟩
    have hstep := (step_afterCommands hr hs bs k).trans (h'.engTurn_afterCommands (by omega))
    rw [runSteps_succ hstep, ih h' hr (by omega) rfl]
    rfl

/-- Settles O50: the session by `State.OffersSession.runSteps_eng`, the error half by the record of FINISH in each state. -/
theorem wellFormedSessionReturnsChecksum : Obligations.WellFormedSessionReturnsChecksum := by
  refine ⟨fun s bs rest turns hi hr hc hn hp hs => ?session, fun s hbad => ?error⟩
  case session =>
    obtain ⟨-, ht, -, -⟩ := s.inv_iff.1 hi
    have hb : s.TableBuilt := ht.tableBuilt ((s.cmdReady_iff false).1 hc).1
    have h : s.OffersSession bs := ⟨hb, hc, hn, rest, hp.symm⟩
    exact h.runSteps_eng (k := 0) hr (Nat.zero_add _) hs
  case error =>
    rcases hbad with ⟨ha, hne⟩ | he
    · exact ⟨_, _, exec_finish s, by rw [State.finishedWith_rspq, State.finishRecord_of_underrun ha hne]⟩
    · exact ⟨_, _, exec_finish s, by rw [State.finishedWith_rspq, State.finishRecord_of_error he]⟩

/-! ### Every order of turns: O56 -/

/-- On a settled state each command of the session but FINISH leaves the queue empty. -/
theorem State.afterCommands_settled {s : State} {bs : List Byte} (hs : s.settled = s) {k : Nat} (hk : k < bs.length + 2) :
    (s.afterCommands bs k).settled = s.afterCommands bs k := by
  cases k with
  | zero => exact hs
  | succ k =>
    rw [s.afterCommands_succ_of_le (by omega)]
    exact congrArg (State.inSession · _ _) hs

theorem State.OffersSession.acceptNext_iterate {s : State} {bs : List Byte} (h : s.OffersSession bs)
    (hs : s.settled = s) {k : Nat} (hk : k ≤ bs.length + 2) :
    State.acceptNext^[k] s = (s.afterCommands bs k).settled := by
  induction k with
  | zero => exact hs.symm
  | succ k ih =>
    rw [Function.iterate_succ_apply', ih (by omega), State.afterCommands_settled hs hk, State.acceptNext,
      h.engTurn_afterCommands hk]

theorem State.launch_settled_offersSession {bs : List Byte} (hn : bs.length < 2 ^ 28) :
    (State.launch ((sessionCommands bs).map encode)).settled.OffersSession bs :=
  ⟨builtTable_read, State.settled_cmdReady _, hn, [], List.append_nil _⟩

/-- Settles O56: the final state is the one that the session makes of the settled launch state, and the records are a field
of it. -/
theorem endedSessionRunReturnsChecksum : Obligations.EndedSessionRunReturnsChecksum := by
  rintro bs turns records final hn hr ⟨n, _, hs, he, hobs⟩
  cases hobs
  have h := State.launch_settled_offersSession hn
  have hlen : ((sessionCommands bs).map encode).length = bs.length + 2 := by simp [sessionCommands]
  have hfinal := (runAfter_onRunOf hr hs).eq_of_runEnded he
  rw [hlen, h.acceptNext_iterate rfl (Nat.le_refl _), State.afterCommands_all] at hfinal
  rw [hfinal]
  exact ⟨rfl, rfl, rfl, rfl, rfl, rfl⟩

end Sys2Proof.Machine
end

section
/-! The queries (43_query.md R160 to R162): the record each pushes, and the status word by its fields (10_state.md R33); O12 to
O15. -/

namespace Sys2Proof.Machine

/-! ### TREAD -/

/-- Settles O12: the state by `execTread_of_tblRead`, the word by `encode_tread_eq_or`. -/
theorem treadPushesTableEntry : Obligations.TreadPushesTableEntry :=
  ⟨fun _ _ _ hv => execTread_of_tblRead hv, encode_tread_eq_or⟩

/-! ### STATUS: the word as its fields (R33) -/

/-- Fields placed side by side are the upper one shifted past the lower one and ORed with it. -/
theorem zext32_append {n m : Nat} (x : BitVec n) (y : BitVec m) :
    zext32 (x ++ y) = zext32 x <<< m ||| zext32 y := by
  refine BitVec.eq_of_getLsbD_eq fun i hi => ?_
  rcases Nat.lt_or_ge i m with him | him
  · simp [zext32, BitVec.getLsbD_append, hi, him]
  · simp [zext32, BitVec.getLsbD_append, hi, him.not_gt, BitVec.getLsbD_of_ge y i him]

theorem State.statusWord_eq_append (s : State) :
    s.statusWord = 0#24 ++ (s.err ++ (0#1 ++ (BitVec.ofBool s.trdy ++ s.sst.code))) := by
  calc s.statusWord
      = zext32 (s.err ++ (0#1 ++ (BitVec.ofBool s.trdy ++ s.sst.code))) := by
        have hrsv : zext32 0#1 = 0#32 := rfl
        rw [zext32_append, zext32_append, zext32_append, hrsv, BitVec.zero_shiftLeft, BitVec.zero_or,
          State.statusWord, BitVec.or_assoc]
    _ = 0#24 ++ (s.err ++ (0#1 ++ (BitVec.ofBool s.trdy ++ s.sst.code))) := BitVec.setWidth_eq_append (by decide)

/-- STATUS answers in every state, with the status word at the tail. -/
theorem exec_status (s : State) :
    exec .status s = .next { s with rspq := s.rspq ++ [⟨.data, s.statusWord⟩] } := rfl

/-- Settles O13: the formula is `State.statusWord`, and its fields are those of the word written as an append. -/
theorem statusPushesStatusFields : Obligations.StatusPushesStatusFields := by
  refine ⟨fun s => ⟨s.statusWord, exec_status s, rfl, ?_⟩, rfl⟩
  rw [s.statusWord_eq_append]
  refine ⟨?_, ?_, ?_, ?_, BitVec.extractLsb'_append_eq_left⟩
  · iterate 3 rw [BitVec.extractLsb'_append_eq_of_add_le (by decide)]
    exact BitVec.extractLsb'_append_eq_right
  · iterate 4 rw [BitVec.getLsbD_append]
    simp
  · iterate 3 rw [BitVec.getLsbD_append]
    simp
  · rw [BitVec.extractLsb'_append_eq_of_add_le (by decide)]
    exact BitVec.extractLsb'_append_eq_left

/-- Settles O14: the session's invariant fixes `ERR` in IDLE and ACTIVE and leaves it three codes in ERROR. -/
theorem statusWordIsOneOfFive : Obligations.StatusWordIsOneOfFive := by
  intro s hi ht
  refine ⟨s.statusWord, exec_status s, ?_⟩
  rw [State.statusWord, ht]
  cases hs : s.sst with
  | idle =>
    obtain ⟨-, -, -, he⟩ := hi.idleClear hs
    exact .inl ⟨rfl, by rw [he]; rfl⟩
  | active => exact .inr (.inl ⟨rfl, by rw [hi.activeNoErr hs]; rfl⟩)
  | error =>
    refine .inr (.inr ⟨rfl, ?_⟩)
    rcases hi.errorCode hs with he | he | he <;> rw [he]
    exacts [.inl rfl, .inr (.inl rfl), .inr (.inr rfl)]

/-! ### REMAIN -/

theorem toNat_zext32_count (c : Count) : (zext32 c).toNat = c.toNat := BitVec.toNat_setWidth_of_le (by decide)

/-- REMAIN answers in every state, with the widened difference at the tail. -/
theorem exec_remain (s : State) :
    exec .remain s = .next { s with rspq := s.rspq ++ [⟨.data, zext32 (lenMinusCnt s.len s.cnt)⟩] } := rfl

/-- Settles O15: widening keeps the 28-bit difference, which is exact by `lenMinusCnt_of_le`; in IDLE both counts are 0. -/
theorem remainPushesBytesExpected : Obligations.RemainPushesBytesExpected := by
  refine ⟨fun s => ⟨_, exec_remain s, ?bound, fun hle => ?exact⟩, fun s hi hs => ?idle, rfl⟩
  case bound =>
    rw [toNat_zext32_count]
    exact (lenMinusCnt s.len s.cnt).isLt
  case exact =>
    obtain ⟨he, hn⟩ := lenMinusCnt_of_le hle
    rw [toNat_zext32_count, he, hn]
  case idle =>
    obtain ⟨-, hlen, hcnt, -⟩ := hi.idleClear hs
    have hz : zext32 (lenMinusCnt s.len s.cnt) = 0#32 := by rw [hlen, hcnt]; rfl
    rw [exec_remain, hz]

end Sys2Proof.Machine
end

section
/-! The error state (60_exceptions.md R204, R205, R208): what the error entry writes, what leaves ERROR, and what every other
step keeps there; O17, O21 and O22. -/

namespace Sys2Proof.Machine

/-! ### The error entry and the signals -/

/-- R51: `err` is 1 exactly in ERROR. -/
theorem State.errSignal_iff (s : State) : s.errSignal = true ↔ s.sst = .error := decide_eq_true_iff

/-- Settles O17: the two equations of the error entry, which always ends in ERROR; the signals by R51. -/
theorem errorEntryKeepsFirstCode : Obligations.ErrorEntryKeepsFirstCode :=
  ⟨fun c _ hs => State.raiseErr_of_ne_error hs c, fun c _ hs => State.raiseErr_of_error hs c,
    fun c s => (State.errSignal_iff _).2 (s.raiseErr_sst c), fun s => ⟨s.errSignal_iff, rfl⟩⟩

/-! ### The registers of the session -/

/-- `t` has the session state, the error code and the datapath of `s` (R208). -/
structure State.SameSession (s t : State) : Prop where
  sst : t.sst = s.sst
  err : t.err = s.err
  acc : t.acc = s.acc
  len : t.len = s.len
  cnt : t.cnt = s.cnt

namespace State.SameSession

theorem refl (s : State) : s.SameSession s := ⟨rfl, rfl, rfl, rfl, rfl⟩

theorem trans {s t u : State} (h : s.SameSession t) (k : t.SameSession u) : s.SameSession u :=
  ⟨k.sst.trans h.sst, k.err.trans h.err, k.acc.trans h.acc, k.len.trans h.len, k.cnt.trans h.cnt⟩

theorem push (s : State) (tag : Tag) (data : Word) : s.SameSession (s.push tag data) := ⟨rfl, rfl, rfl, rfl, rfl⟩

theorem advancePos (s : State) : s.SameSession s.advancePos := ⟨rfl, rfl, rfl, rfl, rfl⟩

theorem takeMove (s : State) : s.SameSession s.takeMove := by constructor <;> simp

theorem genTurn (s : State) : s.SameSession s.genTurn := by constructor <;> simp

theorem popHead (s : State) : s.SameSession s.popHead := by constructor <;> simp

end State.SameSession

/-! ### What a step from ERROR can have done -/

/-- In ERROR every command but FINISH and START keeps the session's registers: BYTE is discarded (R140). -/
theorem exec_cases_of_error {i : Instr} {s t : State} (he : s.sst = .error) (h : exec i s = .next t) :
    (i = .finish ∧ t.sst = .idle) ∨ (∃ len, i = .start len) ∨ s.SameSession t := by
  rcases exec_cases h with ⟨-, rfl⟩ | ⟨len, rfl, -⟩ | ⟨b, -, hb⟩ | ⟨rfl, rfl⟩ | ⟨k, -, v, -, rfl⟩ | ⟨-, rfl⟩ | ⟨-, rfl⟩
  · exact .inr (.inr (.refl _))
  · exact .inr (.inl ⟨len, rfl⟩)
  · cases (execByte_of_error he b).symm.trans hb
    exact .inr (.inr (.refl s))
  · exact .inl ⟨rfl, rfl⟩
  · exact .inr (.inr (.push s _ _))
  · exact .inr (.inr (.push s _ _))
  · exact .inr (.inr (.push s _ _))

/-- In ERROR an illegal word keeps the session's registers too, because the first code is kept (R208). -/
theorem perform_cases_of_error {w : Word} {s t : State} (he : s.sst = .error) (h : perform w s = .next t) :
    (decode w = .ok .finish ∧ t.sst = .idle) ∨ (∃ len, decode w = .ok (.start len)) ∨ s.SameSession t := by
  rcases perform_cases h with ⟨i, hd, hx⟩ | ⟨e, -, rfl⟩
  · simpa [hd] using exec_cases_of_error he hx
  · rw [State.raiseErr_of_error he]
    exact .inr (.inr (.refl s))

/-- Everything a step from ERROR can have done: a reset, an accepted FINISH, an accepted START, or one of the steps that keep
the session's registers (R205, R208). -/
theorem step_cases_of_error {s t : State} (he : s.sst = .error) (h : step s = .next t) :
    (s.nextMove = .reset ∧ t.sst = .idle) ∨
      (∃ w, s.acceptedWord = some w ∧ decode w = .ok .finish ∧ t.sst = .idle) ∨
      (∃ w, s.acceptedWord = some w ∧ ∃ len, decode w = .ok (.start len)) ∨ s.SameSession t := by
  have hturn : s.SameSession s.takeMove := .takeMove s
  rcases step_cases_acceptedWord h with ⟨w, hw, -, -, -, hp⟩ | ⟨-, ⟨-, rfl | rfl | rfl⟩ | ⟨hm, rfl⟩⟩
  · have hpos : s.SameSession s.takeMove.advancePos := hturn.trans (.advancePos _)
    rcases perform_cases_of_error (hpos.sst.trans he) hp with ⟨hd, ht⟩ | hd | hk
    · exact .inr (.inl ⟨w, hw, hd, ht⟩)
    · exact .inr (.inr (.inl ⟨w, hw, hd⟩))
    · exact .inr (.inr (.inr (hpos.trans hk)))
  · exact .inr (.inr (.inr (hturn.trans (.genTurn _))))
  · exact .inr (.inr (.inr hturn))
  · exact .inr (.inr (.inr (hturn.trans (.popHead _))))
  · exact .inl ⟨hm, rfl⟩

/-! ### The ways out of ERROR (R205) -/

/-- The step of an accepted legal word is its command, on the state with the turn used up and the position one further (R79). -/
theorem step_of_acceptedWord {s : State} {w : Word} {i : Instr} (hw : s.acceptedWord = some w) (hd : decode w = .ok i) :
    step s = exec i s.takeMove.advancePos := by
  unfold State.acceptedWord at hw
  split at hw
  next hready =>
    obtain ⟨hm, hr, hc⟩ := hready
    rw [stepRunsDecodedCommand s w i hm hr hw hc hd, s.takeMove_advancePos]
  next => cases hw

/-- Settles O21: each way out by the state it answers, STATUS by its fields, and nothing else by `step_cases_of_error`. -/
theorem onlyFinishStartAndResetLeaveError : Obligations.OnlyFinishStartAndResetLeaveError := by
  refine ⟨fun s w he hw hd => ?finish, fun s w len he hw hd => ?start, fun s he hm => ?reset, fun s t h => ?status,
    fun s t h he hne => ?only⟩
  case finish =>
    refine ⟨_, (step_of_acceptedWord hw hd).trans (exec_finish _), rfl, rfl, ?_⟩
    rw [State.finishedWith_rspq, State.finishRecord_of_error (by simpa using he)]
    simp
  case start => exact ⟨_, step_of_acceptedWord hw hd, rfl, rfl, rfl, rfl, by simp⟩
  case reset => exact ⟨_, step_of_reset hm, rfl, rfl⟩
  case status =>
    obtain ⟨d, hx, -, -, -, -, herr, -⟩ := statusPushesStatusFields.1 s
    cases hx.symm.trans h
    exact ⟨rfl, rfl, d, rfl, herr⟩
  case only =>
    rcases step_cases_of_error he h with ⟨hm, -⟩ | ⟨w, hw, hd, -⟩ | ⟨w, hw, hd⟩ | hk
    · exact .inl hm
    · exact .inr ⟨w, hw, .inl hd⟩
    · exact .inr ⟨w, hw, .inr hd⟩
    · exact absurd (hk.sst.trans he) hne

/-! ### Inside ERROR (R208) -/

/-- Settles O22: of the steps from ERROR, reset and FINISH end in IDLE, START is excluded, and the others keep the registers. -/
theorem errorCodeHeldWhileInError : Obligations.ErrorCodeHeldWhileInError := by
  intro s t h he ht hstart
  rcases step_cases_of_error he h with ⟨-, hi⟩ | ⟨w, -, -, hi⟩ | ⟨w, hw, n, hd⟩ | hk
  · cases hi.symm.trans ht
  · cases hi.symm.trans ht
  · exact absurd hd (hstart w hw n)
  · exact ⟨hk.err, hk.acc, hk.len, hk.cnt⟩

end Sys2Proof.Machine
end

section
/-! A turn by what its agent has (00_scope.md R15) and by whether a reset has been (70_reset_and_hazards.md R241): which steps
answer, which are holds, which are refused; O43 from these. -/

namespace Sys2Proof.Machine

/-! ### Before and after the first reset (R241) -/

/-- A step that answers leaves a state after a reset: only a reset answers before the first one. -/
theorem step_resetDone {s t : State} (h : step s = .next t) : t.resetDone = true := by
  rcases step_cases h with ⟨-, hr, rfl⟩ | ⟨-, hr, w, -, -, hp⟩ | ⟨-, hr, -, rfl⟩ | ⟨-, hr, rfl⟩ | ⟨-, rfl⟩
  · simpa using hr
  · simpa [(perform_sameTableAndHost hp).resetDone] using hr
  · simpa using hr
  · simpa using hr
  · rfl

theorem State.afterReset_of_not_resetDone {s : State} (h : s.resetDone = false)
    (o : Host.Outcome State Fault Refusal) : s.afterReset o = .refused .beforeFirstReset := by
  simp [State.afterReset, h]

/-- Before the first reset every turn but reset is refused, whatever its agent would do. -/
theorem runMove_refused_of_not_resetDone {s : State} {m : Move} (h : s.resetDone = false) (hm : m ≠ .reset) :
    runMove m s = .refused .beforeFirstReset := by
  cases m with
  | gen | eng | pop => exact State.afterReset_of_not_resetDone h _
  | reset => exact absurd rfl hm

/-- Settles O43: the refusal for each agent, and the mark that every answering step leaves. -/
theorem noMeaningBeforeFirstReset : Obligations.NoMeaningBeforeFirstReset := by
  refine ⟨fun s hr hm => runMove_refused_of_not_resetDone (by simpa using hr) hm, fun s _ hm => ?_⟩
  have ht := step_of_reset hm
  exact ⟨_, ht, step_resetDone ht⟩

/-! ### The agent whose turn it is, with a step and without one -/

/-- After a first reset, with the table as GEN leaves it, every turn answers. -/
theorem State.TableInv.step_answers {s : State} (h : s.TableInv) (hr : s.resetDone = true) : ∃ t, step s = .next t := by
  cases hm : s.nextMove with
  | gen => exact ⟨_, step_of_gen hm hr⟩
  | eng =>
    rw [step_of_eng hm hr]
    exact State.TableInv.engTurn_answers h.of_eq
  | pop => exact ⟨_, step_of_pop hm hr⟩
  | reset => exact ⟨_, step_of_reset hm⟩

theorem State.genTurn_of_not_enabled {s : State} (h : s.genEnabled = false) : s.genTurn = s := by
  simp [State.genTurn, h]

/-- A record is valid exactly where the queue holds one (R54). -/
theorem State.rspValid_iff (s : State) : s.rspValid = true ↔ s.rspq ≠ [] := by
  simp [State.rspValid]

theorem State.rspValid_eq_false_iff (s : State) : s.rspValid = false ↔ s.rspq = [] := by
  simp [State.rspValid]

@[simp] theorem State.takeMove_enabled (s : State) (m : Move) : s.takeMove.enabled m = s.enabled m := by
  cases m <;> simp [State.enabled, State.genEnabled, State.engEnabled, State.rspValid]

@[simp] theorem State.withTurn_enabled (s : State) (m m' : Move) : (s.withTurn m).enabled m' = s.enabled m' := by
  cases m' <;> rfl

/-- The turn of an agent that has no step is a hold (R14). -/
theorem step_of_not_enabled {s : State} (hr : s.resetDone = true) (h : s.enabled s.nextMove = false) :
    step s = .next s.takeMove := by
  rw [← State.takeMove_enabled] at h
  cases hm : s.nextMove with
  | gen => rw [hm] at h; rw [step_of_gen hm hr, State.genTurn_of_not_enabled h]
  | eng => rw [hm] at h; rw [step_of_eng hm hr, engTurn_of_not_enabled h]
  | pop => rw [hm] at h; rw [step_of_pop hm hr, State.popHead_of_nil ((State.rspValid_eq_false_iff _).1 h)]
  | reset => rw [hm] at h; cases h

end Sys2Proof.Machine
end

section
/-! The hold of ENG (70_reset_and_hazards.md R245, R246, R251) and the two waits of a host (R246, 20_memory.md R55); O54 and
O53. -/

namespace Sys2Proof.Machine

/-! ### What lifts a hold -/

/-- ENG holds exactly where words are left and the table is not ready or the queue is full. -/
theorem State.engHolds_iff (s : State) :
    s.engHolds = true ↔ s.pos < s.program.length ∧ (s.trdy = true → Config.rspDepth ≤ s.rspq.length) := by
  simp [State.engHolds, State.cmdReady, State.offered, ← Bool.not_eq_true, imp_iff_not_or]

theorem State.engHolds_eq_false_iff (s : State) :
    s.engHolds = false ↔ (s.pos < s.program.length → s.trdy = true ∧ s.rspq.length < Config.rspDepth) := by
  rw [← Bool.not_eq_true, s.engHolds_iff]
  simp

/-- GEN's turn that sets `TRDY` is its step with `GIDX` 255 (R102). -/
theorem State.gidx_eq_of_genTurn_trdy {s : State} (h : s.trdy = false) (ht : s.genTurn.trdy = true) :
    s.gidx.toNat = 255 := by
  rcases Nat.lt_or_ge s.gidx.toNat Config.nTbl with hg | hg
  · rw [State.genTurn_of_lt hg, State.genWrite_trdy_of_lt hg, h] at ht
    simpa using ht
  · rw [State.genTurn_of_ge hg, h] at ht
    cases ht

theorem State.genTurn_trdy_of_last {s : State} (h : s.gidx.toNat = 255) : s.genTurn.trdy = true := by
  have hlt : s.gidx.toNat < Config.nTbl := by rw [h]; decide
  rw [State.genTurn_of_lt hlt, State.genWrite_trdy_of_lt hlt, if_pos h]

/-- A pop takes one record from a queue that holds one. -/
theorem State.popHead_rspq_length {s : State} (h : s.rspq ≠ []) : s.popHead.rspq.length + 1 = s.rspq.length := by
  obtain ⟨r, rs, hq⟩ := List.exists_cons_of_ne_nil h
  simp [State.popHead_of_cons hq, hq]

/-- A full queue holds a record: its depth is at least 1 (R10). -/
theorem State.rspq_ne_nil_of_full {s : State} (h : Config.rspDepth ≤ s.rspq.length) : s.rspq ≠ [] :=
  List.ne_nil_of_length_pos (Nat.lt_of_lt_of_le (Nat.succ_pos _) h)

/-- A held ENG has no step. -/
theorem State.engEnabled_of_engHolds {s : State} (h : s.engHolds = true) : s.engEnabled = false := by
  simp only [State.engHolds, Bool.and_eq_true, Bool.not_eq_true'] at h
  simp [State.engEnabled, h.2]

/-- The step that ends a hold, agent by agent: an accepted word needs a ready port, a hold changes nothing that ENG waits on,
and a reset clears `TRDY`. -/
theorem step_cases_of_hold_lifted {s t : State} (h : step s = .next t) (hs : s.engHolds = true)
    (ht : t.engHolds = false) :
    (s.nextMove = .gen ∧ s.trdy = false ∧ s.gidx.toNat = 255 ∧ t.trdy = true) ∨
      (s.nextMove = .pop ∧ Config.rspDepth ≤ s.rspq.length ∧ t.rspq.length + 1 = s.rspq.length) := by
  obtain ⟨hp, hlack⟩ := s.engHolds_iff.1 hs
  have hready := t.engHolds_eq_false_iff.1 ht
  rcases step_cases h with ⟨hm, -, rfl⟩ | ⟨-, -, w, -, hc, -⟩ | ⟨-, -, -, rfl⟩ | ⟨hm, -, rfl⟩ | ⟨-, rfl⟩
  · obtain ⟨htrdy, hq⟩ := hready (by simpa using hp)
    have hnot : s.trdy = false := by
      refine Bool.eq_false_iff.2 fun hr => Nat.not_lt_of_le (hlack hr) ?_
      simpa using hq
    have hg := State.gidx_eq_of_genTurn_trdy (s := s.takeMove) (by simpa using hnot) htrdy
    exact .inl ⟨hm, hnot, by simpa using hg, htrdy⟩
  · obtain ⟨htrdy, hq, -⟩ := (s.cmdReady_iff false).1 hc
    exact absurd hq (Nat.not_lt_of_le (hlack htrdy))
  · obtain ⟨htrdy, hq⟩ := hready (by simpa using hp)
    exact absurd (by simpa using hq) (Nat.not_lt_of_le (hlack (by simpa using htrdy)))
  · obtain ⟨htrdy, -⟩ := hready (by simpa using hp)
    have hfull := hlack (by simpa using htrdy)
    have hlen := State.popHead_rspq_length (s := s.takeMove) (by simpa using State.rspq_ne_nil_of_full hfull)
    exact .inr ⟨hm, hfull, by simpa using hlen⟩
  · obtain ⟨htrdy, -⟩ := hready (by simpa using hp)
    cases htrdy

/-- Settles O54: the hold by `step_of_not_enabled`, its end by `step_cases_of_hold_lifted`, and each of the two ends. -/
theorem holdIsLiftedByGenOrPop : Obligations.HoldIsLiftedByGenOrPop := by
  refine ⟨fun s hs hr hm => ?held, fun s t h hs ht => step_cases_of_hold_lifted h hs ht, fun s _ hr hm hg hq => ?gen,
    fun s _ hr hm htrdy hq => ?pop⟩
  case held => exact step_of_not_enabled hr (by rw [hm]; exact State.engEnabled_of_engHolds hs)
  case gen =>
    exact ⟨_, step_of_gen hm hr, (State.engHolds_eq_false_iff _).2 fun _ =>
      ⟨State.genTurn_trdy_of_last (by simpa using hg), by simpa using hq⟩⟩
  case pop =>
    have hlen := State.popHead_rspq_length (s := s.takeMove) (by simpa using State.rspq_ne_nil_of_full hq.ge)
    rw [State.takeMove_rspq] at hlen
    exact ⟨_, step_of_pop hm hr, (State.engHolds_eq_false_iff _).2 fun _ => ⟨by simpa using htrdy, by omega⟩⟩

/-! ### A host that waits -/

/-- The full queue of a host that does not pop: no turn of GEN or ENG changes position, queue or popped records (R246). -/
theorem runFrom_of_full {s : State} {turns : Nat → Move} (hr : s.resetDone = true)
    (hfull : Config.rspDepth ≤ s.rspq.length) (hturns : ∀ n, turns n = .gen ∨ turns n = .eng) (n : Nat) :
    ∃ t, runFrom s turns n = .next t ∧
      (t.resetDone = true ∧ t.pos = s.pos ∧ t.rspq = s.rspq ∧ t.popped = s.popped) := by
  refine runFrom_induction ⟨hr, rfl, rfl, rfl⟩ (fun k u ⟨hru, hpos, hq, hpop⟩ => ?_) n
  rcases hturns k with hm | hm <;> rw [hm]
  · exact ⟨_, step_withTurn_gen hru, by simpa using ⟨hru, hpos, hq, hpop⟩⟩
  · have hhold : (u.withTurn .eng).enabled .eng = false := State.engEnabled_of_lack (.inr (.inl (hq ▸ hfull)))
    exact ⟨_, step_of_not_enabled hru hhold, hru, hpos, hq, hpop⟩

/-- The empty queue of a host that offers nothing: no turn of GEN or pop brings a record or moves the position (R55). -/
theorem runFrom_of_empty {s : State} {turns : Nat → Move} (hr : s.resetDone = true) (hempty : s.rspq = [])
    (hturns : ∀ n, turns n = .gen ∨ turns n = .pop) (n : Nat) :
    ∃ t, runFrom s turns n = .next t ∧
      (t.resetDone = true ∧ t.rspq = [] ∧ t.pos = s.pos ∧ t.popped = s.popped ∧ t.program = s.program) := by
  refine runFrom_induction ⟨hr, hempty, rfl, rfl, rfl⟩ (fun k u ⟨hru, hq, hpos, hpop, hprog⟩ => ?_) n
  rcases hturns k with hm | hm <;> rw [hm]
  · exact ⟨_, step_withTurn_gen hru, by simpa using ⟨hru, hq, hpos, hpop, hprog⟩⟩
  · have hhold : (u.withTurn .pop).enabled .pop = false := u.rspValid_eq_false_iff.2 hq
    exact ⟨_, step_of_not_enabled hru hhold, hru, hq, hpos, hpop, hprog⟩

/-- Settles O53: what each wait leaves unchanged says that the port stays closed, or that no record is valid, and that the run
has not ended. -/
theorem waitingHostHangs : Obligations.WaitingHostHangs := by
  refine ⟨fun s turns hr hfull hturns n => ?full, fun s turns hr hempty hturns n => ?empty⟩
  case full =>
    obtain ⟨t, ht, -, hpos, hq, hpop⟩ := runFrom_of_full hr hfull hturns n
    refine ⟨t, ht, Bool.eq_false_iff.2 fun hc => ?_, hpos, hq, hpop, fun ⟨_, _, hend⟩ => ?_⟩
    · exact Nat.not_lt_of_le (hq ▸ hfull) (State.rspq_length_lt_of_cmdReady hc)
    · exact State.rspq_ne_nil_of_full hfull (hq ▸ hend)
  case empty =>
    obtain ⟨t, ht, -, hq, hpos, hpop, hprog⟩ := runFrom_of_empty hr hempty hturns n
    refine ⟨t, ht, t.rspValid_eq_false_iff.2 hq, hpos, hpop, fun hlt ⟨hend, _⟩ => ?_⟩
    rw [hpos, hprog] at hend
    exact Nat.ne_of_lt hlt hend

end Sys2Proof.Machine
end

section
/-! The result of a run without reset (70_reset_and_hazards.md R249 to R251); O52 and O51.

The idea: `State.remaining` counts what is left to do. A turn of an agent that has a step makes it smaller, any other turn leaves
the state as it is, and short of the end some agent has a step. So a run that is fair to all three agents cannot stay in one
state short of its end, and moves on only finitely often. -/

namespace Sys2Proof.Machine

/-! ### The results of a run -/

/-- A run without reset answers after every number of turns (R251). -/
theorem runAfter_answers {program : List Word} {turns : Nat → Move} (hr : NoResetAfterStart turns) (n : Nat) :
    ∃ s, runAfter program turns n = .next s ∧ (s.OnRunOf program ∧ s.resetDone = true) := by
  refine runFrom_induction ⟨State.launch_onRunOf program, rfl⟩ (fun k s ⟨hs, hd⟩ => ?_) n
  obtain ⟨-, htb, -, -⟩ := (State.inv_iff _).1 (hs.inv.withTurn (turns k))
  obtain ⟨t, ht⟩ := htb.step_answers hd
  exact ⟨t, ht, hs.keeps_turn (hr k) ht, step_resetDone ht⟩

theorem runAfter_resetDone {program : List Word} {turns : Nat → Move} {n : Nat} {s : State}
    (h : runAfter program turns n = .next s) : s.resetDone = true :=
  runFrom_keeps (p := fun s => s.resetDone = true) rfl (fun _ _ _ _ ht => step_resetDone ht) n h

/-- The result of a run without reset is a hang or an end: no step faults and none is refused. -/
theorem runGives_cases {program : List Word} {turns : Nat → Move} {o : RunResult} (hr : NoResetAfterStart turns)
    (h : RunGives program turns o) : o = .hang ∨ ∃ records final, o = .ended records final := by
  cases o with
  | ended records final => exact .inr ⟨records, final, rfl⟩
  | fault f | refused r =>
    obtain ⟨n, hn⟩ := h
    obtain ⟨s, hs, -⟩ := runAfter_answers (program := program) hr n
    cases hs.symm.trans hn
  | hang => exact .inl rfl

/-- A run without reset hangs exactly where it has no end: no turn stops it. -/
theorem runGives_hang_iff {program : List Word} {turns : Nat → Move} (hr : NoResetAfterStart turns) :
    RunGives program turns .hang ↔ ¬∃ records final, RunGives program turns (.ended records final) := by
  constructor
  · rintro hhang ⟨records, final, n, s, hs, he, -⟩
    obtain ⟨t, ht, hnot⟩ := hhang n
    cases hs.symm.trans ht
    exact hnot he
  · intro hno n
    obtain ⟨s, hs, -⟩ := runAfter_answers (program := program) hr n
    exact ⟨s, hs, fun he => hno ⟨_, _, n, s, hs, he, rfl⟩⟩

/-- Settles O52: two ends agree by O55, a hang is the lack of an end, and there is no other result. -/
theorem everyRunEndsOrHangs : Obligations.EveryRunEndsOrHangs := by
  intro program turns hr
  by_cases hend : ∃ records final, RunGives program turns (.ended records final)
  · obtain ⟨records, final, h⟩ := hend
    refine ⟨.ended records final, h, fun o' ho' => ?_, .inr ⟨records, final, rfl⟩⟩
    rcases runGives_cases hr ho' with rfl | ⟨records', final', rfl⟩
    · exact absurd ⟨records, final, h⟩ ((runGives_hang_iff hr).1 ho')
    · obtain ⟨rfl, rfl⟩ := endedRunsOfOneProgramAgree program turns turns _ _ _ _ hr hr h ho'
      rfl
  · refine ⟨.hang, (runGives_hang_iff hr).2 hend, fun o' ho' => ?_, .inl rfl⟩
    rcases runGives_cases hr ho' with rfl | ⟨records, final, rfl⟩
    · rfl
    · exact absurd ⟨records, final, ho'⟩ hend

/-! ### What is left to do -/

/-- What a run has left: the entries to write, the words to accept, each of which may leave a record, and the records to pop. -/
def State.remaining (s : State) : Nat :=
  (Config.nTbl - s.gidx.toNat) + 2 * (s.program.length - s.pos) + s.rspq.length

/-- A step of an agent that has one leaves less to do. -/
theorem step_remaining_lt {s t : State} (h : step s = .next t) (hm : s.nextMove ≠ .reset)
    (hen : s.enabled s.nextMove = true) : t.remaining < s.remaining := by
  rcases step_cases h with ⟨hg, -, rfl⟩ | ⟨-, -, w, ho, -, hp⟩ | ⟨hg, -, hlack, -⟩ | ⟨hg, -, rfl⟩ | ⟨hreset, -⟩
  · rw [hg] at hen
    have hlt := s.genEnabled_iff.1 hen
    have hsucc := State.genTurn_gidx_of_lt (s := s.takeMove) (by simpa using hlt)
    rw [State.takeMove_gidx] at hsucc
    simp only [State.remaining, hsucc, State.genTurn_program, State.genTurn_pos, State.genTurn_rspq,
      State.takeMove_program, State.takeMove_pos, State.takeMove_rspq]
    omega
  · have hlt := State.pos_lt_of_offered ho
    have hf := perform_sameTableAndHost hp
    have hq : t.rspq.length ≤ s.rspq.length + 1 := by
      rcases perform_rspq_cases hp with hq | ⟨r, hq⟩ <;> simp [hq]
    simp only [State.remaining, hf.gidx, hf.program, hf.pos, State.advancePos_gidx, State.advancePos_program,
      State.advancePos_pos, State.takeMove_gidx, State.takeMove_program, State.takeMove_pos]
    omega
  · rw [hg] at hen
    obtain ⟨w, ho, hc⟩ := (engEnabled_iff s).1 hen
    simp [ho, hc] at hlack
  · rw [hg] at hen
    have hlen := State.popHead_rspq_length (s := s.takeMove) (by simpa using s.rspValid_iff.1 hen)
    simp only [State.remaining, State.popHead_gidx, State.popHead_program, State.popHead_pos, State.takeMove_gidx,
      State.takeMove_program, State.takeMove_pos, ← State.takeMove_rspq s, ← hlen]
    omega
  · exact absurd hreset hm

/-- Short of the end some agent has a step: GEN while entries are missing, HOST while the queue holds a record, and otherwise
ENG, whose port is ready. -/
theorem State.Inv.exists_enabled {s : State} (h : s.Inv) (he : ¬s.RunEnded) : ∃ m, m ≠ .reset ∧ s.enabled m = true := by
  rcases Nat.lt_or_ge s.gidx.toNat Config.nTbl with hg | hg
  · exact ⟨.gen, nofun, s.genEnabled_iff.2 hg⟩
  have hg : s.gidx.toNat = Config.nTbl := Nat.le_antisymm h.gidxLe hg
  by_cases hq : s.rspq = []
  · have hp : s.pos < s.program.length := Nat.lt_of_le_of_ne h.posLe fun hp => he ⟨hp, hg, hq⟩
    have hc : s.cmdReady false = true := (s.cmdReady_iff _).2 ⟨h.readyIff.2 hg, by rw [hq]; exact Nat.succ_pos _, rfl⟩
    exact ⟨.eng, nofun, (engEnabled_iff s).2 ⟨s.program[s.pos], List.getElem?_eq_getElem hp, hc⟩⟩
  · exact ⟨.pop, nofun, s.rspValid_iff.2 hq⟩

/-! ### Fair runs -/

/-- The turn of an agent that has no step leaves the run where it is. -/
theorem runAfter_succ_of_not_enabled {program : List Word} {turns : Nat → Move} {n : Nat} {s : State}
    (hr : NoResetAfterStart turns) (hs : runAfter program turns n = .next s) (h : s.enabled (turns n) = false) :
    runAfter program turns (n + 1) = .next s := by
  have hd := runAfter_resetDone hs
  rw [runAfter_succ hs, step_of_not_enabled (s := s.withTurn _) hd (by simpa using h),
    State.withTurn_takeMove_of_schedule_nil (runAfter_onRunOf hr hs).schedule]

/-- A run that is fair to every agent and has not ended comes, still in the same state, to the turn of an agent that has a
step: if it never did, an agent that has a step there would have it for ever and no turn. -/
theorem exists_enabled_turn {program : List Word} {turns : Nat → Move} {n : Nat} {s : State}
    (hr : NoResetAfterStart turns) (hfair : ∀ m, m ≠ .reset → WeaklyFair program turns m)
    (hs : runAfter program turns n = .next s) (he : ¬s.RunEnded) :
    ∃ k, runAfter program turns k = .next s ∧ s.enabled (turns k) = true := by
  by_contra! hno
  have hstay (k : Nat) (hk : n ≤ k) : runAfter program turns k = .next s := by
    induction k, hk using Nat.le_induction with
    | base => exact hs
    | succ k _ ih => exact runAfter_succ_of_not_enabled hr ih (by simpa using hno k ih)
  obtain ⟨m, hm, hen⟩ := (runAfter_onRunOf hr hs).inv.exists_enabled he
  obtain ⟨k, hk, rfl⟩ := hfair m hm n fun k t hk ht => by
    cases (hstay k hk).symm.trans ht
    exact hen
  exact hno k (hstay k hk) hen

/-- A run that is fair to every agent ends, by induction on what is left to do. -/
theorem exists_runEnded_of_fair {program : List Word} {turns : Nat → Move} {n : Nat} {s : State}
    (hr : NoResetAfterStart turns) (hfair : ∀ m, m ≠ .reset → WeaklyFair program turns m)
    (hs : runAfter program turns n = .next s) : ∃ k t, runAfter program turns k = .next t ∧ t.RunEnded := by
  induction hrem : s.remaining using Nat.strong_induction_on generalizing n s with
  | _ d ih =>
    by_cases he : s.RunEnded
    · exact ⟨n, s, hs, he⟩
    obtain ⟨k, hk, hen⟩ := exists_enabled_turn hr hfair hs he
    obtain ⟨t, ht, -⟩ := runAfter_answers (program := program) hr (k + 1)
    have hstep : step (s.withTurn (turns k)) = .next t := (runAfter_succ hk).symm.trans ht
    have hlt : t.remaining < s.remaining := step_remaining_lt (s := s.withTurn _) hstep (hr k) (by simpa using hen)
    exact ih t.remaining (hrem ▸ hlt) ht rfl

/-! ### A host that pops -/

/-- Only a pop or a reset takes the last record away. -/
theorem step_keeps_record {s t : State} (h : step s = .next t) (hreset : s.nextMove ≠ .reset) (hpop : s.nextMove ≠ .pop)
    (hq : s.rspq ≠ []) : t.rspq ≠ [] := by
  rcases step_cases h with ⟨-, -, rfl⟩ | ⟨-, -, w, -, -, hp⟩ | ⟨-, -, -, rfl⟩ | ⟨hm, -⟩ | ⟨hm, -⟩
  · simpa using hq
  · rcases perform_rspq_cases hp with hq' | ⟨r, hq'⟩
    · simpa [hq'] using hq
    · simp [hq']
  · simpa using hq
  · exact absurd hm hpop
  · exact absurd hm hreset

/-- A record that no pop takes stays in the queue of a run. -/
theorem record_stays_without_pop {program : List Word} {turns : Nat → Move} {n : Nat} {s : State}
    (hr : NoResetAfterStart turns) (hs : runAfter program turns n = .next s) (hq : s.rspq ≠ [])
    (hno : ∀ k, n ≤ k → turns k ≠ .pop) {k : Nat} (hk : n ≤ k) {t : State} (ht : runAfter program turns k = .next t) :
    t.rspq ≠ [] := by
  induction k, hk using Nat.le_induction generalizing t with
  | base => cases hs.symm.trans ht; exact hq
  | succ k hk ih =>
    obtain ⟨u, hu, hstep⟩ := runFrom_pred ht
    have hqu := ih hu
    exact step_keeps_record (s := u.withTurn _) hstep (hr k) (hno k hk) hqu

/-- Weak fairness of HOST's pop is a host that pops every record (log 18): a record keeps the pop enabled until it comes. -/
theorem weaklyFair_pop_iff {program : List Word} {turns : Nat → Move} (hr : NoResetAfterStart turns) :
    WeaklyFair program turns .pop ↔ HostPopsEveryRecord program turns := by
  constructor
  · intro hfair n s hs hq
    by_contra! hno
    obtain ⟨k, hk, hpop⟩ := hfair n fun k t hk ht =>
      t.rspValid_iff.2 (record_stays_without_pop hr hs hq hno hk ht)
    exact hno k hk hpop
  · intro hpops n hen
    obtain ⟨s, hs, -⟩ := runAfter_answers (program := program) hr n
    exact hpops n s hs (s.rspValid_iff.1 (hen n s (Nat.le_refl n) hs))

/-- Weak fairness of GEN and ENG and a host that pops every record bring the run to its end (R249). -/
theorem exists_runGives_ended_of_fair {program : List Word} {turns : Nat → Move} (hr : NoResetAfterStart turns)
    (hgen : WeaklyFair program turns .gen) (heng : WeaklyFair program turns .eng)
    (hpops : HostPopsEveryRecord program turns) : ∃ records final, RunGives program turns (.ended records final) := by
  have hfair (m : Move) (hm : m ≠ .reset) : WeaklyFair program turns m := by
    cases m with
    | gen => exact hgen
    | eng => exact heng
    | pop => exact (weaklyFair_pop_iff hr).2 hpops
    | reset => exact absurd rfl hm
  obtain ⟨k, t, ht, he⟩ := exists_runEnded_of_fair hr hfair (runAfter_zero program turns)
  exact ⟨_, _, k, t, ht, he, rfl⟩

/-- Settles O51: a run that hangs has no end, so its host is not one that pops every record. -/
theorem everyFairRunEnds : Obligations.EveryFairRunEnds := by
  intro program turns hr
  refine ⟨exists_runGives_ended_of_fair hr, weaklyFair_pop_iff hr, fun hgen heng hhang => ?_⟩
  by_contra! hpops
  exact (runGives_hang_iff hr).1 hhang (exists_runGives_ended_of_fair hr hgen heng hpops)

end Sys2Proof.Machine
end

section
/-! The decode vectors (95_test_vectors.md section 6): legal words as the encoder's words, illegal ones by the two kinds of R76
that they show; O5. -/

namespace Sys2Proof

/-- R76: the opcodes 7 to 15 are rejected whatever the other bits are. -/
theorem decode_of_seven_le_opField {w : Word} (h : 7 ≤ (opField w).toNat) : decode w = .error .reservedOpcode := by
  rcases decode_cases w with ⟨ho, -⟩ | ⟨ho, -⟩ | ⟨ho, -⟩ | ⟨ho, -⟩ | ⟨ho, -⟩ | ⟨ho, -⟩ | ⟨ho, -⟩ | ⟨-, hd⟩
  case inr.inr.inr.inr.inr.inr.inr => exact hd
  all_goals simp [ho] at h

/-- R76: a command of format B, BYTE or TREAD, is rejected when its reserved field is not 0. -/
theorem decode_of_rsv20_ne_zero {w : Word} (ho : opField w = 2#4 ∨ opField w = 4#4) (hr : rsv20 w ≠ 0#20) :
    decode w = .error .reservedField := by
  rcases ho with ho | ho
  · calc decode w = formatB w .byte := by simp [decode, ho]
      _ = .error .reservedField := if_neg hr
  · calc decode w = formatB w .tread := by simp [decode, ho]
      _ = .error .reservedField := if_neg hr

/-- Settles O5: each legal word is its command's encoding, and each illegal one is of the kind that its rejection names. -/
theorem wordsWrittenOutDecodeRight : Obligations.WordsWrittenOutDecodeRight :=
  ⟨decode_encode .nop, decode_encode (.start 0x0FFFFFFF#28), decode_encode (.byte 0x4F#8), decode_encode .finish,
    decode_encode (.tread 0xAB#8), decode_encode .status, decode_encode .remain,
    decode_of_rsv20_ne_zero (.inl (by decide)) (by decide), decode_of_seven_le_opField (by decide)⟩

end Sys2Proof
end
